-- ==== Sys2Proof/Word.lean ====
section
/-! DEFINITION. The two word types of the machine (00_scope.md R7, R9). Every value is unsigned. -/

namespace Sys2Proof

/-- Four bits: a general register, the program counter, a port latch, an opcode field, an operand (R7). -/
abbrev Nibble := BitVec 4

/-- Eight bits: an instruction word (R7, R50). -/
abbrev Byte := BitVec 8

end Sys2Proof
end

