-- ==== Sys2Proof/Config.lean ====
section
/-! DEFINITION. The parameters of 00_scope.md R6 that are types or bounds. Their values for a run are carried by State, which
is all the host's interface gives a step (log entries 1 and 2). There is no free value: the spec leaves no value open
(93_implementation_defined.md, Part 1). -/

namespace Sys2Proof

/-- `UNDEF_POLICY` (R6, R55): what an undefined opcode pattern does. -/
inductive UndefPolicy where
  /-- The cycle raises UndefinedOpcode (R132). -/
  | fault
  /-- The word executes as AddA with its low nibble (R133). -/
  | aliasAddA
  deriving DecidableEq, Repr

/-- The default of `UNDEF_POLICY` (R6; decision D4 of the spec). -/
def Config.defaultPolicy : UndefPolicy := .fault

/-- The number of instruction addresses, and so the most words a program may have (R6, R7, R30). -/
def Config.maxWords : Nat := 16

end Sys2Proof
end

