-- ==== Sys2Proof/Machine/State.lean ====
section
/-! DEFINITION. The state: the six items of 10_state.md R10, the parameters of 00_scope.md R6 (log entry 1), the schedule of the
host's moves (log entry 3); the two faults of 60_exceptions.md R130; and the state after reset (R25). -/

namespace Sys2Proof.Machine

/-- The instruction space (R30): the words present, as (address, word) cells with addresses rising. An unlisted address
holds nothing, and fetching it raises AddressOutOfRange (R31). -/
abbrev Memory := List Host.Cell

/-- What the host may do to the core between two cycles, besides reading `OUT` and starting a cycle (R161). -/
inductive HostMove where
  /-- `set_input(v)`: `IN <- v mod 16` (R18, R161). -/
  | setInput (v : Nat)
  /-- Reset between cycles: the six items of R10 to zero (R25, R150; decision D6 of the spec). -/
  | reset
  deriving DecidableEq, Repr

/-- The two faults (R130), each with the information it records. -/
inductive Fault where
  /-- Code 1, raised by fetch when `PC >= L`; records `PC` (R131). The spec's own outcome, so it is safe. -/
  | addressOutOfRange (addr : Nibble)
  /-- Code 2, raised for a word whose opcode is undefined, under `UNDEF_POLICY = fault`; records `PC` and the word (R132).
  The spec's own outcome, so it is safe. -/
  | undefinedOpcode (addr : Nibble) (word : Byte)
  deriving DecidableEq, Repr

/-- Why the model declines something. No cycle ends in a refusal (R79). -/
inductive Refusal where
  /-- An instruction without a meaning. No arm of `exec` raises it. Safe. -/
  | notModelled (mnemonic : String)
  /-- A program of more than sixteen words given to the load (R6; decision D7 of the spec). Raised by
  `State.loadProgram` only. Safe: the spec gives such a load no effect. -/
  | programTooLong (words : Nat)
  deriving DecidableEq, Repr

/-- The machine: R10's six items, then the parameters of the run and the host's schedule. -/
structure State where
  /-- `A` (R11). -/
  regA : Nibble
  /-- `B` (R12). -/
  regB : Nibble
  /-- `PC`, a word address (R14). -/
  pc : Nibble
  /-- `C`: true is set (R16). -/
  carry : Bool
  /-- `IN`, the input latch (R18). -/
  portIn : Nibble
  /-- `OUT`, the output latch (R19). -/
  portOut : Nibble
  /-- `PROG`: a parameter of the run, which no step changes (R6, R22). -/
  prog : Memory
  /-- `UNDEF_POLICY`: a parameter of the run, which no step changes (R6, R27). -/
  undefPolicy : UndefPolicy
  /-- The moves of the host before each coming cycle, the next cycle's first; past its end the host makes no move (R161). The
  model's own field (log entry 3). -/
  hostTurns : List (List HostMove)
  deriving DecidableEq, Repr

/-- The machine after reset: the six items zero (R25), the Instruction Store empty (R25, R152), the default policy (R6) and,
the model's choice, a host that makes no move (log entry 3). -/
def State.reset : State where
  regA := 0
  regB := 0
  pc := 0
  carry := false
  portIn := 0
  portOut := 0
  prog := []
  undefPolicy := Config.defaultPolicy
  hostTurns := []

end Sys2Proof.Machine
end

