-- ==== Sys2Proof/Syntax.lean ====
section
/-! DEFINITION. The instructions: one constructor per row of spec/opcode_table.json, in numeric order of the opcode
(30_encoding.md R53). The operand is the decoded operand of R52: InA, InB and OutB have none, because decode forces it to
zero; MovAB and MovBA keep the encoded nibble, which execute does not read. -/

namespace Sys2Proof

/-- The twelve opcodes of R53 and the four patterns of R55 that the table leaves undefined. -/
inductive Instr where
  /-- `0000`: add operand to register A (R90). -/
  | addA (k : Nibble)
  /-- `0001`: copy register A into register B; the nibble is kept and unused (R102). -/
  | movAB (x : Nibble)
  /-- `0010`: load port input into register A (R120). -/
  | inA
  /-- `0011`: load operand into register A (R100). -/
  | movA (k : Nibble)
  /-- `0100`: copy register B into register A; the nibble is kept and unused (R103). -/
  | movBA (x : Nibble)
  /-- `0101`: add operand to register B (R91). -/
  | addB (k : Nibble)
  /-- `0110`: load port input into register B (R121). -/
  | inB
  /-- `0111`: load operand into register B (R101). -/
  | movB (k : Nibble)
  /-- `1000`: an undefined opcode pattern (R132, R133). -/
  | undefined1000 (k : Nibble)
  /-- `1001`: write register B to port output (R122). -/
  | outB
  /-- `1010`: an undefined opcode pattern (R132, R133). -/
  | undefined1010 (k : Nibble)
  /-- `1011`: write operand directly to port output (R123). -/
  | outIm (k : Nibble)
  /-- `1100`: an undefined opcode pattern (R132, R133). -/
  | undefined1100 (k : Nibble)
  /-- `1101`: an undefined opcode pattern (R132, R133). -/
  | undefined1101 (k : Nibble)
  /-- `1110`: jump to operand address if carry flag is clear (R111). -/
  | jnc (target : Nibble)
  /-- `1111`: unconditional jump to operand address (R110). -/
  | jmp (target : Nibble)
  deriving DecidableEq, Repr

end Sys2Proof
end

