-- ==== Sys2Proof/WellFormed.lean ====
section
/-! DEFINITION. What a well-formed instruction and a well-formed program are. Every operand value is legal (R52, R56, R113),
so the one check on an instruction is whether its opcode pattern is an instruction under the policy (R55, R57, R133). -/

namespace Sys2Proof

/-- The opcode is one of the four patterns outside the twelve-entry table (R55). -/
def Instr.isUndefined : Instr → Bool
  | .undefined1000 _ => true
  | .undefined1010 _ => true
  | .undefined1100 _ => true
  | .undefined1101 _ => true
  | .addA _ => false
  | .movAB _ => false
  | .inA => false
  | .movA _ => false
  | .movBA _ => false
  | .addB _ => false
  | .inB => false
  | .movB _ => false
  | .outB => false
  | .outIm _ => false
  | .jnc _ => false
  | .jmp _ => false

/-- An instruction under a policy: the twelve opcodes always (R57), the other patterns only under `alias_adda` (R133). -/
def Instr.wellFormed (p : UndefPolicy) (i : Instr) : Bool :=
  match p with
  | .fault => !i.isUndefined
  | .aliasAddA => true

/-- The constraint on a program that may be loaded: at most sixteen words (R6, R30; decision D7 of the spec). -/
def programWellFormed (ws : List Byte) : Bool := decide (ws.length ≤ Config.maxWords)

end Sys2Proof
end

