-- ==== Sys2Proof/Machine/Ops.lean ====
section
/-! DEFINITION. The named operations over the instruction space, the registers and the port; raising a fault; the host's
operations (20_memory.md, 10_state.md, 60_exceptions.md, 70_reset_and_hazards.md). -/

namespace Sys2Proof.Machine

/-! ## The instruction space -/

/-- The Instruction Store's `read` (R31): the word at an address, or nothing where no word is. -/
def Memory.read : Memory → Nat → Option Byte
  | [], _ => none
  | (a, w) :: rest, x => if x = a then some w else Memory.read rest x

/-- Placing a word at an address, addresses kept rising. Only placing a program does it: no instruction writes the
instruction space (R32). -/
def Memory.put : Memory → Nat → Byte → Memory
  | [], x, v => [(x, v)]
  | (a, w) :: rest, x, v =>
    if x < a then (x, v) :: (a, w) :: rest
    else if x = a then (x, v) :: rest
    else (a, w) :: Memory.put rest x v

/-- The words of a program at consecutive addresses from `n` on. -/
def Memory.ofWordsFrom : Nat → List Byte → Memory
  | _, [] => []
  | n, w :: ws => (n, w) :: Memory.ofWordsFrom (n + 1) ws

/-- `PROG`: word `n` of the sequence at address `n` (R30). -/
def Memory.ofWords (ws : List Byte) : Memory := Memory.ofWordsFrom 0 ws

/-- `L`, the number of words (R6). -/
def Memory.size (m : Memory) : Nat := m.length

/-- The canonical form: addresses strictly rising and inside the sixteen of R30. An unlisted address holds nothing, so no
entry can equal it. -/
def Memory.wf (m : Memory) : Bool :=
  decide ((m.map Prod.fst).Pairwise (· < ·)) && m.all (fun c => decide (c.1 < Config.maxWords))

/-- The form every loaded program has: its addresses are exactly `0 .. L-1`, and `L <= 16` (R30). -/
def Memory.isProgram (m : Memory) : Bool :=
  decide (m.map Prod.fst = List.range m.size) && decide (m.size ≤ Config.maxWords)

/-! ## Registers and port latches -/

/-- A general register: `x[0]` is A and `x[1]` is B (R9, R13). -/
inductive Reg where
  | a
  | b
  deriving DecidableEq, Repr

/-- Read of a general register (R9). -/
def State.reg (s : State) : Reg → Nibble
  | .a => s.regA
  | .b => s.regB

/-- Write of a general register (R9); four bits are stored (R17). -/
def State.setReg (s : State) (r : Reg) (v : Nibble) : State :=
  match r with
  | .a => { s with regA := v }
  | .b => { s with regB := v }

/-- `pc <- target` (R9). -/
def State.setPc (s : State) (v : Nibble) : State := { s with pc := v }

/-- `C <- b` (R9). -/
def State.setCarry (s : State) (b : Bool) : State := { s with carry := b }

/-- `PortIn()`: the input latch, nothing changed (R43). -/
def State.readPort (s : State) : Nibble := s.portIn

/-- `PortOut(v)`: `OUT <- v` (R43). -/
def State.writePort (s : State) (v : Nibble) : State := { s with portOut := v }

/-- The sequencer's step for every opcode but Jmp and Jnc: `PC <- (PC + 1) mod 16` (R74, R15). -/
def State.advance (s : State) : State := s.setPc (s.pc + 1)

/-! ## Faults -/

/-- `raise`: the cycle ends at once with the fault, and no state is written (R9, R137). There is no handler and no return
(R137, R138). -/
def raise (f : Fault) : Host.Outcome State Fault Refusal := .fault f

/-- The fault's code as the host sees it (R130); 0 is kept for no fault. -/
def Fault.code : Fault → Nat
  | .addressOutOfRange _ => 1
  | .undefinedOpcode _ _ => 2

/-! ## The host -/

/-- `set_input(v)`: `IN <- v mod 16` (R18, R161). -/
def State.setInput (s : State) (v : Nat) : State := { s with portIn := BitVec.ofNat 4 v }

/-- `output()`: the output latch, nothing changed (R77). -/
def State.output (s : State) : Nibble := s.portOut

/-- Reset: the six items of R10 as R25 gives them. The program, the policy and the host's own schedule stay (R152; log
entries 2 and 10). -/
def State.resetCore (s : State) : State :=
  { s with regA := 0, regB := 0, pc := 0, carry := false, portIn := 0, portOut := 0 }

/-- One move of the host (R161). -/
def State.hostMove (s : State) : HostMove → State
  | .setInput v => s.setInput v
  | .reset => s.resetCore

/-- The host's moves in their order. -/
def State.hostMoves (s : State) : List HostMove → State
  | [] => s
  | m :: ms => (s.hostMove m).hostMoves ms

/-- The host's turn before a cycle: the moves scheduled for it, which are then used up (R44, R161). -/
def State.hostTurn (s : State) : State :=
  match s.hostTurns with
  | [] => s
  | ms :: rest => ({ s with hostTurns := rest }).hostMoves ms

/-- The load of a program before the run (R153, R161): registers, latches and policy are not touched, since load and reset
do not interact. More than sixteen words are refused (decision D7 of the spec). -/
def State.loadProgram (s : State) (ws : List Byte) : Host.Outcome State Fault Refusal :=
  if programWellFormed ws then .next { s with prog := Memory.ofWords ws }
  else .refused (.programTooLong ws.length)

/-- A word placed at the address the next cycle fetches, with an idle host turn before that cycle. -/
def State.placeWord (s : State) (w : Byte) : State :=
  { s with
    prog := s.prog.put s.pc.toNat w
    hostTurns := match s.hostTurns with
      | [] => []
      | _ :: rest => [] :: rest }

end Sys2Proof.Machine
end

