-- ==== Sys2Proof/Machine/Flags.lean ====
section
/-! DEFINITION. The adder and the one flag (41_add.md R92, R93; 10_state.md R16). -/

namespace Sys2Proof.Machine

/-- `t <- zext_5(v) + zext_5(k)`: the exact five-bit sum, no carry in (R93). -/
def adder (v k : Nibble) : BitVec 5 := v.setWidth 5 + k.setWidth 5

/-- `t[3:0]`: the sum modulo 16 (R90, R91). -/
def sumOf (v k : Nibble) : Nibble := (adder v k).extractLsb' 0 4

/-- `t[4]`: set iff the exact sum exceeds 15 (R90, R91). -/
def carryOf (v k : Nibble) : Bool := (adder v k).getLsbD 4

/-- `C <- 0`, which every opcode but AddA and AddB does (R16, R104). -/
def State.clearCarry (s : State) : State := s.setCarry false

end Sys2Proof.Machine
end

