-- ==== Sys2Proof/Machine/Operands.lean ====
section
/-! DEFINITION. The operand forms (30_encoding.md R52, 42_mov.md R104): where a transferred value comes from and where it
goes. -/

namespace Sys2Proof.Machine

/-- Where a transfer reads. -/
inductive Source where
  /-- The decoded operand, unsigned, not extended (R52). -/
  | imm (k : Nibble)
  /-- A general register. -/
  | reg (r : Reg)
  /-- The input latch (R43). -/
  | portIn
  deriving DecidableEq, Repr

/-- Where a transfer writes. -/
inductive Dest where
  /-- A general register. -/
  | reg (r : Reg)
  /-- The output latch (R43). -/
  | portOut
  deriving DecidableEq, Repr

/-- The value of a source, read from the state at the start of the cycle (R75). -/
def Source.value (src : Source) (s : State) : Nibble :=
  match src with
  | .imm k => k
  | .reg r => s.reg r
  | .portIn => s.readPort

/-- The write of a destination. -/
def Dest.write (dst : Dest) (v : Nibble) (s : State) : State :=
  match dst with
  | .reg r => s.setReg r v
  | .portOut => s.writePort v

end Sys2Proof.Machine
end

