-- ==== Sys2Proof/Machine/Add.lean ====
section
/-! DEFINITION. AddA and AddB (41_add.md). -/

namespace Sys2Proof.Machine

/-- The add of R90 and R91 on a register: sum, carry out, then the sequencer. The old carry is not read. -/
def addTo (r : Reg) (k : Nibble) (s : State) : State :=
  (((s.setReg r (sumOf (s.reg r) k)).setCarry (carryOf (s.reg r) k)).advance)

/-- AddA (R90). -/
def execAddA (k : Nibble) (s : State) : Host.Outcome State Fault Refusal := .next (addTo .a k s)

/-- AddB (R91). -/
def execAddB (k : Nibble) (s : State) : Host.Outcome State Fault Refusal := .next (addTo .b k s)

end Sys2Proof.Machine
end

