-- ==== Sys2Proof/Machine/Jump.lean ====
section
/-! DEFINITION. Jmp and Jnc (43_jump.md). Neither is followed by the sequencer's increment (40_cycle.md R74). -/

namespace Sys2Proof.Machine

/-- Jmp (R110): the operand is the absolute target; the target is not checked (R113). -/
def execJmp (target : Nibble) (s : State) : Host.Outcome State Fault Refusal :=
  .next (s.setPc target).clearCarry

/-- Jnc (R111): the carry is tested before it is cleared; a jump not taken leaves the program counter on the Jnc. -/
def execJnc (target : Nibble) (s : State) : Host.Outcome State Fault Refusal :=
  .next (if s.carry then s.clearCarry else (s.setPc target).clearCarry)

end Sys2Proof.Machine
end

