-- ==== Sys2Proof/Machine/Transfer.lean ====
section
/-! DEFINITION. The eight transfers (42_mov.md, 44_io.md): MovA, MovB, MovAB, MovBA, InA, InB, OutB, OutIm. -/

namespace Sys2Proof.Machine

/-- The common law of the eight transfers (R104): the value to its destination, the carry cleared, then the sequencer. -/
def transfer (dst : Dest) (src : Source) (s : State) : State :=
  ((dst.write (src.value s) s).clearCarry).advance

/-- MovA (R100). -/
def execMovA (k : Nibble) (s : State) : Host.Outcome State Fault Refusal := .next (transfer (.reg .a) (.imm k) s)

/-- MovB (R101). -/
def execMovB (k : Nibble) (s : State) : Host.Outcome State Fault Refusal := .next (transfer (.reg .b) (.imm k) s)

/-- MovAB (R102): A into B. The kept nibble is not read. -/
def execMovAB (_x : Nibble) (s : State) : Host.Outcome State Fault Refusal :=
  .next (transfer (.reg .b) (.reg .a) s)

/-- MovBA (R103): B into A. The kept nibble is not read. -/
def execMovBA (_x : Nibble) (s : State) : Host.Outcome State Fault Refusal :=
  .next (transfer (.reg .a) (.reg .b) s)

/-- InA (R120). -/
def execInA (s : State) : Host.Outcome State Fault Refusal := .next (transfer (.reg .a) .portIn s)

/-- InB (R121). -/
def execInB (s : State) : Host.Outcome State Fault Refusal := .next (transfer (.reg .b) .portIn s)

/-- OutB (R122). -/
def execOutB (s : State) : Host.Outcome State Fault Refusal := .next (transfer .portOut (.reg .b) s)

/-- OutIm (R123). -/
def execOutIm (k : Nibble) (s : State) : Host.Outcome State Fault Refusal := .next (transfer .portOut (.imm k) s)

end Sys2Proof.Machine
end

