-- ==== Sys2Proof/Decode.lean ====
section
/-! DEFINITION. The opcode decoder (30_encoding.md R50 to R58) and the encoder (R61). Decode is total: each of the 256 words is
one constructor, the four undefined patterns under names of their own, so nothing falls through to a neighbour. Which of the
two effects an undefined pattern has is the policy's; `decodeUnder` gives R54's own result under a policy, and the meanings of
the undefined patterns apply the same choice (log entry 16). -/

namespace Sys2Proof

/-- `opc = w[7:4]` (R51). -/
def opcField (w : Byte) : Nibble := w.extractLsb' 4 4

/-- `imm = w[3:0]` (R51). -/
def immField (w : Byte) : Nibble := w.extractLsb' 0 4

/-- The opcode map of R53 with the operand rule of R52, the four opcode bits from `w[7]` down to `w[4]`. -/
def decodeFields (opc imm : Nibble) : Instr :=
  match opc.getLsbD 3, opc.getLsbD 2, opc.getLsbD 1, opc.getLsbD 0 with
  | false, false, false, false => .addA imm
  | false, false, false, true => .movAB imm
  | false, false, true, false => .inA
  | false, false, true, true => .movA imm
  | false, true, false, false => .movBA imm
  | false, true, false, true => .addB imm
  | false, true, true, false => .inB
  | false, true, true, true => .movB imm
  | true, false, false, false => .undefined1000 imm
  | true, false, false, true => .outB
  | true, false, true, false => .undefined1010 imm
  | true, false, true, true => .outIm imm
  | true, true, false, false => .undefined1100 imm
  | true, true, false, true => .undefined1101 imm
  | true, true, true, false => .jnc imm
  | true, true, true, true => .jmp imm

/-- The instruction a word stands for (R54, R58: it depends on the word alone). -/
def decode (w : Byte) : Instr := decodeFields (opcField w) (immField w)

/-- Decoding the first word of a stream: one length, one word (R50). -/
def decodeBytes : List Byte → Option (Instr × List Byte)
  | [] => none
  | w :: rest => some (decode w, rest)

/-- The last case of R54: nothing, the spec's `Undefined(w)`, under `fault`, and AddA with the low nibble under
`alias_adda`. -/
def decodeUndefined (p : UndefPolicy) (k : Nibble) : Option Instr :=
  match p with
  | .fault => none
  | .aliasAddA => some (.addA k)

/-- R54's `decode` under a policy: one of the twelve opcodes with its operand, or nothing where the spec has `Undefined(w)`. -/
def decodeUnder (p : UndefPolicy) (w : Byte) : Option Instr :=
  match decode w with
  | .addA k => some (.addA k)
  | .movAB x => some (.movAB x)
  | .inA => some .inA
  | .movA k => some (.movA k)
  | .movBA x => some (.movBA x)
  | .addB k => some (.addB k)
  | .inB => some .inB
  | .movB k => some (.movB k)
  | .undefined1000 k => decodeUndefined p k
  | .outB => some .outB
  | .undefined1010 k => decodeUndefined p k
  | .outIm k => some (.outIm k)
  | .undefined1100 k => decodeUndefined p k
  | .undefined1101 k => decodeUndefined p k
  | .jnc a => some (.jnc a)
  | .jmp a => some (.jmp a)

/-- The opcode pattern of an instruction (R53). -/
def Instr.opcode : Instr → Nibble
  | .addA _ => 0b0000
  | .movAB _ => 0b0001
  | .inA => 0b0010
  | .movA _ => 0b0011
  | .movBA _ => 0b0100
  | .addB _ => 0b0101
  | .inB => 0b0110
  | .movB _ => 0b0111
  | .undefined1000 _ => 0b1000
  | .outB => 0b1001
  | .undefined1010 _ => 0b1010
  | .outIm _ => 0b1011
  | .undefined1100 _ => 0b1100
  | .undefined1101 _ => 0b1101
  | .jnc _ => 0b1110
  | .jmp _ => 0b1111

/-- The operand decode reports (R52): zero for InA, InB and OutB, the encoded nibble for every other opcode. -/
def Instr.operand : Instr → Nibble
  | .addA k => k
  | .movAB x => x
  | .inA => 0
  | .movA k => k
  | .movBA x => x
  | .addB k => k
  | .inB => 0
  | .movB k => k
  | .undefined1000 k => k
  | .outB => 0
  | .undefined1010 k => k
  | .outIm k => k
  | .undefined1100 k => k
  | .undefined1101 k => k
  | .jnc a => a
  | .jmp a => a

/-- `opc ++ operand`, the opcode on the high side (R61). -/
def encodeFields (opc operand : Nibble) : Byte := opc ++ operand

/-- The word of an instruction (R61), with the ignored nibble of InA, InB and OutB emitted as zero (R59). -/
def encode (i : Instr) : Byte := encodeFields i.opcode i.operand

/-- The instruction of a row of the opcode table: `w` is its one word, of eight bits (R50). A width other than eight bits is
no row of this table. -/
def decodeTableWord (nbits w : Nat) : Option Instr :=
  if nbits = 8 then some (decode (BitVec.ofNat 8 w)) else none

end Sys2Proof
end

