-- ==== Sys2Proof/Machine/Undefined.lean ====
section
/-! DEFINITION. The four undefined opcode patterns (60_exceptions.md R132, R133), whose effect the policy of the run selects. -/

namespace Sys2Proof.Machine

/-- A word of an undefined pattern: UndefinedOpcode with the program counter and the word under `fault` (R132); the effect of
AddA with the low nibble under `alias_adda` (R133). -/
def undefinedPattern (opc k : Nibble) (s : State) : Host.Outcome State Fault Refusal :=
  match s.undefPolicy with
  | .fault => raise (.undefinedOpcode s.pc (encodeFields opc k))
  | .aliasAddA => .next (addTo .a k s)

/-- The pattern `1000`. -/
def execUndefined1000 (k : Nibble) (s : State) : Host.Outcome State Fault Refusal := undefinedPattern 0b1000 k s

/-- The pattern `1010`. -/
def execUndefined1010 (k : Nibble) (s : State) : Host.Outcome State Fault Refusal := undefinedPattern 0b1010 k s

/-- The pattern `1100`. -/
def execUndefined1100 (k : Nibble) (s : State) : Host.Outcome State Fault Refusal := undefinedPattern 0b1100 k s

/-- The pattern `1101`. -/
def execUndefined1101 (k : Nibble) (s : State) : Host.Outcome State Fault Refusal := undefinedPattern 0b1101 k s

end Sys2Proof.Machine
end

