-- ==== Sys2Proof/Machine/Dispatch.lean ====
section
/-! DEFINITION. Execute: the exhaustive dispatch of 40_cycle.md R73 and R81, one arm per constructor. -/

namespace Sys2Proof.Machine

def exec (i : Instr) (s : State) : Host.Outcome State Fault Refusal :=
  match i with
  | .addA k => Sys2Proof.Machine.execAddA k s
  | .movAB x => Sys2Proof.Machine.execMovAB x s
  | .inA => Sys2Proof.Machine.execInA s
  | .movA k => Sys2Proof.Machine.execMovA k s
  | .movBA x => Sys2Proof.Machine.execMovBA x s
  | .addB k => Sys2Proof.Machine.execAddB k s
  | .inB => Sys2Proof.Machine.execInB s
  | .movB k => Sys2Proof.Machine.execMovB k s
  | .undefined1000 k => Sys2Proof.Machine.execUndefined1000 k s
  | .outB => Sys2Proof.Machine.execOutB s
  | .undefined1010 k => Sys2Proof.Machine.execUndefined1010 k s
  | .outIm k => Sys2Proof.Machine.execOutIm k s
  | .undefined1100 k => Sys2Proof.Machine.execUndefined1100 k s
  | .undefined1101 k => Sys2Proof.Machine.execUndefined1101 k s
  | .jnc target => Sys2Proof.Machine.execJnc target s
  | .jmp target => Sys2Proof.Machine.execJmp target s

end Sys2Proof.Machine
end

