-- ==== Sys2Proof/Machine/Cycle.lean ====
section
/-! DEFINITION. One cycle of the core: fetch, decode, execute (40_cycle.md R70 to R76), and what a host that ignores a fault is
left with (60_exceptions.md R138). -/

namespace Sys2Proof.Machine

/-- Fetch (R71): the word at the program counter, read and nothing changed; nothing where there is no word (R31). -/
def fetch (s : State) : Option Byte := s.prog.read s.pc.toNat

/-- The cycle of R76, atomic (R75). Fetch is checked before decode (R136). -/
def cycle (s : State) : Host.Outcome State Fault Refusal :=
  match fetch s with
  | none => raise (.addressOutOfRange s.pc)
  | some w => exec (decode w) s

/-- The state after a cycle: the next state, and after a fault the state unchanged (R76, R137). -/
def afterCycle (s : State) : State :=
  match cycle s with
  | .next t => t
  | .fault _ => s
  | .refused _ => s

end Sys2Proof.Machine
end

