-- ==== Sys2Proof/Machine/Step.lean ====
section
/-! DEFINITION. One step: the host's turn, then one whole cycle of the core (40_cycle.md R75, 70_reset_and_hazards.md R161). -/

namespace Sys2Proof.Machine

/-- What the host does before the cycle (nothing, unless the schedule says otherwise), then the cycle of R76. -/
def step (s : State) : Host.Outcome State Fault Refusal := cycle s.hostTurn

/-- The state with the instruction `w` placed where the next step fetches it, and the host idle before that step. The placed
instruction is one word (R50), so any bits above the table's are zero. It stands for the load of a program (log entry 12). -/
def State.withFetchWord (s : State) (nbits w : Nat) : State := s.placeWord (BitVec.ofNat 8 (w % 2 ^ nbits))

end Sys2Proof.Machine
end

