-- ==== Sys2Proof/Machine/Pseudocode.lean ====
section
/-! DEFINITION. The complete step of 40_cycle.md R76 written out once more, on plain numbers, as the rule's pseudocode has it, and
how a state of the model is read as one of its states. The machine does not use it: a statement compares the two. -/

namespace Sys2Proof.Machine.Pseudocode

/-- The state `(A, B, PC, C, IN, OUT)` of R76, as numbers. -/
structure View where
  numA : Nat
  numB : Nat
  numPC : Nat
  numC : Nat
  numIN : Nat
  numOUT : Nat
  deriving DecidableEq, Repr

/-- What R76's step returns or raises. -/
inductive Result where
  | next (v : View)
  | addressOutOfRange (pc : Nat)
  | undefinedOpcode (pc word : Nat)
  | other
  deriving DecidableEq, Repr

/-- The sequencer of R76 for an opcode that is neither Jmp nor Jnc. -/
def sequencer (s : View) : View := { s with numPC := (s.numPC + 1) % 16 }

/-- R76: fetch, decode (`op = w / 16`, `k = w mod 16`), the opcode's effect, the sequencer. -/
def run (program : List Nat) (policy : UndefPolicy) (s : View) : Result :=
  match program[s.numPC]? with
  | none => .addressOutOfRange s.numPC
  | some w =>
    let k := w % 16
    match w / 16 with
    | 0 => .next (sequencer { s with numA := (s.numA + k) % 16, numC := (s.numA + k) / 16 })
    | 1 => .next (sequencer { s with numB := s.numA, numC := 0 })
    | 2 => .next (sequencer { s with numA := s.numIN, numC := 0 })
    | 3 => .next (sequencer { s with numA := k, numC := 0 })
    | 4 => .next (sequencer { s with numA := s.numB, numC := 0 })
    | 5 => .next (sequencer { s with numB := (s.numB + k) % 16, numC := (s.numB + k) / 16 })
    | 6 => .next (sequencer { s with numB := s.numIN, numC := 0 })
    | 7 => .next (sequencer { s with numB := k, numC := 0 })
    | 9 => .next (sequencer { s with numOUT := s.numB, numC := 0 })
    | 11 => .next (sequencer { s with numOUT := k, numC := 0 })
    | 14 => .next (if s.numC = 0 then { s with numPC := k, numC := 0 } else { s with numC := 0 })
    | 15 => .next { s with numPC := k, numC := 0 }
    | _ =>
      match policy with
      | .fault => .undefinedOpcode s.numPC w
      | .aliasAddA => .next (sequencer { s with numA := (s.numA + k) % 16, numC := (s.numA + k) / 16 })

/-- A state of the model read as a state of R76. -/
def view (s : State) : View where
  numA := s.regA.toNat
  numB := s.regB.toNat
  numPC := s.pc.toNat
  numC := s.carry.toNat
  numIN := s.portIn.toNat
  numOUT := s.portOut.toNat

/-- An outcome of the model read as a result of R76. -/
def viewOutcome : Host.Outcome State Fault Refusal → Result
  | .next t => .next (view t)
  | .fault (.addressOutOfRange a) => .addressOutOfRange a.toNat
  | .fault (.undefinedOpcode a w) => .undefinedOpcode a.toNat w.toNat
  | .refused _ => .other

end Sys2Proof.Machine.Pseudocode
end

