-- ==== Sys2Proof/Machine/Driver.lean ====
section
/-! DEFINITION. What the host sees of a run (40_cycle.md R77, R78): the output latch after each cycle, and the fault that ended the
run, if one did. -/

namespace Sys2Proof.Machine

/-- The observable trace of at most `n` steps (R77): `OUT` after each cycle that completed, and the first fault (R78). A
faulting cycle adds no output (log entry 18). -/
def trace : Nat → State → List Nibble × Option Fault
  | 0, _ => ([], none)
  | n + 1, s =>
    match step s with
    | .next t => (t.output :: (trace n t).1, (trace n t).2)
    | .fault f => ([], some f)
    | .refused _ => ([], none)

end Sys2Proof.Machine
end

