-- ==== Sys2Proof/Safety.lean ====
section
/-! DEFINITION. The terms claims use: the invariant of every state, what a cycle leaves of the run's parameters, which
instructions jump, when a program stays inside itself, and which host turns and programs touch the input. -/

namespace Sys2Proof.Machine

/-- The invariant: the instruction space has the form of a loaded program, addresses `0 .. L-1` with `L <= 16` (R6, R30). -/
def State.inv (s : State) : Prop := s.prog.isProgram = true

/-- From `s` to `t` the run's parameters are the same: every address reads the same word (R22, R41), the program and the policy
are the same (R27), and so is the host's schedule, the model's own field (log entry 3). -/
def State.sameRun (s t : State) : Prop :=
  (∀ a, t.prog.read a = s.prog.read a) ∧ t.prog = s.prog ∧ t.undefPolicy = s.undefPolicy ∧ t.hostTurns = s.hostTurns

/-- The target of a jump, and nothing for the opcodes the sequencer increments after (R74). -/
def jumpTarget : Instr → Option Nibble
  | .jmp a => some a
  | .jnc a => some a
  | .addA _ => none
  | .movAB _ => none
  | .inA => none
  | .movA _ => none
  | .movBA _ => none
  | .addB _ => none
  | .inB => none
  | .movB _ => none
  | .undefined1000 _ => none
  | .outB => none
  | .undefined1010 _ => none
  | .outIm _ => none
  | .undefined1100 _ => none
  | .undefined1101 _ => none

/-- The opcode reads the input latch (R18). -/
def readsInput : Instr → Bool
  | .inA => true
  | .inB => true
  | .addA _ => false
  | .movAB _ => false
  | .movA _ => false
  | .movBA _ => false
  | .addB _ => false
  | .movB _ => false
  | .undefined1000 _ => false
  | .outB => false
  | .undefined1010 _ => false
  | .outIm _ => false
  | .undefined1100 _ => false
  | .undefined1101 _ => false
  | .jnc _ => false
  | .jmp _ => false

/-- The opcode writes the output latch (R19). -/
def writesOutput : Instr → Bool
  | .outB => true
  | .outIm _ => true
  | .addA _ => false
  | .movAB _ => false
  | .inA => false
  | .movA _ => false
  | .movBA _ => false
  | .addB _ => false
  | .inB => false
  | .movB _ => false
  | .undefined1000 _ => false
  | .undefined1010 _ => false
  | .undefined1100 _ => false
  | .undefined1101 _ => false
  | .jnc _ => false
  | .jmp _ => false

/-- The word at address `a` of a program of `size` words is an instruction, and every address it can lead to is inside the
program (R15, R113, R159). -/
def staysInside (p : UndefPolicy) (size a : Nat) (w : Byte) : Bool :=
  (decode w).wellFormed p &&
    match jumpTarget (decode w) with
    | some k => decide (k.toNat < size)
    | none => decide ((a + 1) % 16 < size)

/-- A program that never leaves itself: not empty, and every word stays inside. -/
def Memory.closed (p : UndefPolicy) (m : Memory) : Bool :=
  m.isProgram && decide (0 < m.size) && m.all (fun c => staysInside p m.size c.1 c.2)

/-- A host's move is a reset. -/
def HostMove.isReset : HostMove → Bool
  | .setInput _ => false
  | .reset => true

/-- The resets of a schedule, turn by turn: what is left of it without the writes of the input latch. -/
def resetsOf (turns : List (List HostMove)) : List (List HostMove) := turns.map (fun ms => ms.filter HostMove.isReset)

/-- Two states that differ at most in the input latch and in what the host writes to it. -/
def State.sameButInput (s t : State) : Prop :=
  t.regA = s.regA ∧ t.regB = s.regB ∧ t.pc = s.pc ∧ t.carry = s.carry ∧ t.portOut = s.portOut ∧ t.prog = s.prog ∧
    t.undefPolicy = s.undefPolicy ∧ resetsOf t.hostTurns = resetsOf s.hostTurns

end Sys2Proof.Machine
end

