-- ==== Sys2Proof/Certificates/Slice0/Obligations.lean ====
section
/-! DEFINITION. The statements for the provers. Each docstring names the rule of spec/ it formalises; OBLIGATIONS.json gives the
quote. A statement about a result is also the completion statement of its instruction: its conclusion is that `exec` answers
a next state, and it says what stays unchanged. -/

open Sys2Proof Sys2Proof.Machine

/-! ## Encoding -/

/-- R61: encode is opcode then operand, decode undoes it, and the operand decode reports is the encoded nibble, zero for InA,
InB and OutB. R61's law is for the twelve opcodes; that the four undefined patterns are instructions of the model, which
decode gives back under either policy, is the model's choice of log entry 16. -/
def Obligations.DecodeEncodeRoundTrip : Prop :=
  ∀ i : Instr, encode i = i.opcode ++ i.operand ∧ decode (encode i) = i ∧
    ∀ o : Nibble, (decode (i.opcode ++ o)).opcode = i.opcode ∧
      (decode (i.opcode ++ o)).operand = if i = .inA ∨ i = .inB ∨ i = .outB then 0 else o

/-- R30, R31, R61 together: a loaded program of encoded instructions is fetched and decoded, at every program counter, as the
instruction at that place of the list, and as nothing past its end. That the four undefined patterns are instructions of the
list is the model's choice of log entry 16, and the bound of sixteen words at the load is log entry 11. -/
def Obligations.LoadedProgramDecodesAtEveryAddress : Prop :=
  ∀ (is : List Instr) (s : State), is.length ≤ 16 →
    ∃ t, s.loadProgram (is.map encode) = .next t ∧
      ∀ a : Nibble, (fetch (t.setPc a)).map decode = is[a.toNat]?

/-- R53: the complete map of the sixteen opcode patterns, every low nibble. The twelve named opcodes are R53's; that 1000,
1010, 1100 and 1101 decode to constructors of their own whatever the policy, where R54 has `Undefined(w)` or AddA, is the
model's choice of log entry 16. -/
def Obligations.OpcodeMapOfTheTable : Prop :=
  ∀ k : Nibble,
    decode (0b0000#4 ++ k) = .addA k ∧ decode (0b0001#4 ++ k) = .movAB k ∧
    decode (0b0010#4 ++ k) = .inA ∧ decode (0b0011#4 ++ k) = .movA k ∧
    decode (0b0100#4 ++ k) = .movBA k ∧ decode (0b0101#4 ++ k) = .addB k ∧
    decode (0b0110#4 ++ k) = .inB ∧ decode (0b0111#4 ++ k) = .movB k ∧
    decode (0b1000#4 ++ k) = .undefined1000 k ∧ decode (0b1001#4 ++ k) = .outB ∧
    decode (0b1010#4 ++ k) = .undefined1010 k ∧ decode (0b1011#4 ++ k) = .outIm k ∧
    decode (0b1100#4 ++ k) = .undefined1100 k ∧ decode (0b1101#4 ++ k) = .undefined1101 k ∧
    decode (0b1110#4 ++ k) = .jnc k ∧ decode (0b1111#4 ++ k) = .jmp k

/-- Ten words written out from the encodings, and what they stand for. Nine of the words are as the table
S4 has them; the last, 0xDF, S4 has as Undefined under `fault` and AddA 15 under `alias_adda`, and that it is a constructor
of its own is the model's choice of log entry 16. -/
def Obligations.WordsOfTheSpecDecode : Prop :=
  decode 0x00 = .addA 0 ∧ decode 0x5A = .addB 10 ∧ decode 0x3F = .movA 15 ∧ decode 0x17 = .movAB 7 ∧
    decode 0xF9 = .jmp 9 ∧ decode 0xE4 = .jnc 4 ∧ decode 0x2B = .inA ∧ decode 0x9F = .outB ∧
    decode 0xB3 = .outIm 3 ∧ decode 0xDF = .undefined1101 15

/-- R55: under `fault` exactly the 64 words of the four patterns are undefined, and under `alias_adda` each of them is AddA
with its low nibble. The spec marks the count in R55 as an inference of its own, "[derived: the sixteen patterns less the
twelve of rule R53]", and the two policies as decision D4. -/
def Obligations.UndefinedWordsAreTheSixtyFour : Prop :=
  ∀ w : Byte, (decodeUnder .fault w = none ↔
      (0x80 ≤ w ∧ w ≤ 0x8F) ∨ (0xA0 ≤ w ∧ w ≤ 0xAF) ∨ (0xC0 ≤ w ∧ w ≤ 0xDF)) ∧
    (decodeUnder .fault w = none → decodeUnder .aliasAddA w = some (.addA (immField w)))

/-- R54 against the model's `exec`: executing the word's own instruction is executing what R54's decode under the policy gives;
and where that is `Undefined(w)`, it is `exec` that answers UndefinedOpcode with the program counter and the word. That `exec`
answers it, where R72 has decode hand it to the cycle and execute not run, is the model's choice of log entry 16. -/
def Obligations.ExecuteFollowsDecodeUnderThePolicy : Prop :=
  ∀ (s : State) (w : Byte),
    (∀ i, decodeUnder s.undefPolicy w = some i → exec (decode w) s = exec i s) ∧
    (decodeUnder s.undefPolicy w = none → exec (decode w) s = .fault (.undefinedOpcode s.pc w))

/-! ## Reset and the host -/

/-- R25: every item of state is zero after reset. -/
def Obligations.ResetLeavesEveryItemZero : Prop :=
  State.reset.regA = 0 ∧ State.reset.regB = 0 ∧ State.reset.pc = 0 ∧ State.reset.carry = false ∧
    State.reset.portIn = 0 ∧ State.reset.portOut = 0

/-- R150, R152: the host's reset, from any state, zeroes the six items and leaves the program, the policy and the schedule
(decision D6 of the spec, log entry 10). -/
def Obligations.HostResetZeroesCoreAndKeepsProgram : Prop :=
  ∀ s : State, s.hostMove .reset =
    { State.reset with prog := s.prog, undefPolicy := s.undefPolicy, hostTurns := s.hostTurns }

/-- R153, R161: load and reset do not interact, the load changes only the program, and a program of more than sixteen words
is refused (decision D7 of the spec, log entry 11). -/
def Obligations.LoadAndResetDoNotInteract : Prop :=
  ∀ (s : State) (ws : List Byte),
    (ws.length ≤ 16 → ∃ t, s.loadProgram ws = .next t ∧ t = { s with prog := t.prog } ∧
      (∀ a, t.prog.read a = ws[a]?) ∧ (s.hostMove .reset).loadProgram ws = .next (t.hostMove .reset)) ∧
    (16 < ws.length → s.loadProgram ws = .refused (.programTooLong ws.length))

/-- R44: the value the host writes before a cycle is the value InA or InB reads in that cycle, and a value written by OutB or
OutIm in a cycle is the value `output()` returns after it. The host's writes come from the schedule of log entry 3. -/
def Obligations.PortValuesPassBetweenHostAndCycle : Prop :=
  ∀ (s : State) (ms : List HostMove) (v : Nat) (rest : List (List HostMove)) (w : Byte),
    s.hostTurns = (ms ++ [.setInput v]) :: rest → fetch s.hostTurn = some w →
      (decode w = .inA → ∃ t, step s = .next t ∧ t.regA.toNat = v % 16 ∧ t.portIn.toNat = v % 16) ∧
      (decode w = .inB → ∃ t, step s = .next t ∧ t.regB.toNat = v % 16 ∧ t.portIn.toNat = v % 16) ∧
      (decode w = .outB → ∃ t, step s = .next t ∧ t.output = s.hostTurn.regB) ∧
      (∀ k, decode w = .outIm k → ∃ t, step s = .next t ∧ t.output = k)

/-- R18: no cycle of the core changes the input latch, so with a host that makes no move (an idle turn of the schedule, log entry 3) it keeps its value. -/
def Obligations.OnlyTheHostWritesTheInputLatch : Prop :=
  ∀ s t : State, step s = .next t →
    t.portIn = s.hostTurn.portIn ∧ ((∀ ms ∈ s.hostTurns.head?, ms = []) → t.portIn = s.portIn)

/-! ## Fetch, the cycle, the step -/

/-- R70, R71: when the word at the program counter, after the host's turn (the schedule of log entry 3), decodes to an
instruction, the step is that instruction's execution; with an empty schedule the host's turn does nothing. For an undefined
word under `fault` it is `exec` that answers the fault, where R72 has execute not run: that is the model's choice of log
entry 16. -/
def Obligations.StepRunsTheDecodedInstruction : Prop :=
  ∀ (s : State) (w : Byte), s.hostTurn.prog.read s.hostTurn.pc.toNat = some w →
    step s = exec (decode w) s.hostTurn ∧ (s.hostTurns = [] → s.hostTurn = s)

/-- R31: the store's read, the fetch, and the fault of a fetch at or past the program's length. The two clauses on the extreme
lengths, sixteen and none, are the sentence of R31 that the spec marks as an inference of its own, "with `L = 16` the fault
cannot occur, and with `L = 0` the very first fetch raises it [derived: from rule R30 and 10_state.md rule R14]" (log
entry 4). -/
def Obligations.FetchReadsTheProgramOrFaults : Prop :=
  ∀ (ws : List Byte) (s : State), ws.length ≤ 16 → s.prog = Memory.ofWords ws →
    (∀ a, s.prog.read a = ws[a]?) ∧ fetch s = ws[s.pc.toNat]? ∧
    (ws.length ≤ s.pc.toNat → cycle s = .fault (.addressOutOfRange s.pc)) ∧
    (ws.length = 16 → ∀ a, cycle s ≠ .fault (.addressOutOfRange a)) ∧
    (ws.length = 0 → cycle s = .fault (.addressOutOfRange s.pc))

/-- R130, R136: the two faults, each exactly when the rule says, with the recorded information and the codes; in every other
case the cycle answers a next state. The codes and the recorded information are the spec's own choice in R130, decision D5
(log entry 8), and R136 is an inference of the spec's own, "[derived: from 40_cycle.md rules R71 and R72]". -/
def Obligations.CycleFaultsExactlyWhenTheRulesSay : Prop :=
  ∀ s : State, s.inv →
    (s.prog.size ≤ s.pc.toNat → cycle s = .fault (.addressOutOfRange s.pc)) ∧
    (s.pc.toNat < s.prog.size → ∃ w, fetch s = some w ∧
      if opcField w ∈ [0b1000, 0b1010, 0b1100, 0b1101] ∧ s.undefPolicy = .fault then
        cycle s = .fault (.undefinedOpcode s.pc w)
      else ∃ t, cycle s = .next t) ∧
    (∀ a, (Fault.addressOutOfRange a).code = 1) ∧ (∀ a w, (Fault.undefinedOpcode a w).code = 2)

/-- R79 carried over to the step: from every state whatever, a step answers a next state or a fault, never a refusal, and a cycle
that faults leaves the state as it was. The step's cycle runs after the host's turn, which is the model's choice of log entry
3, and the state after a faulting cycle is what `afterCycle` gives, the reading of log entry 8. -/
def Obligations.StepAnswersNextOrFaultWithStateKept : Prop :=
  ∀ s : State, (∃ t, step s = .next t) ∨ ∃ f, step s = .fault f ∧ afterCycle s.hostTurn = s.hostTurn

/-- R132: under `fault` the cycle raises UndefinedOpcode with the program counter and the word exactly for the four patterns,
and then no state has changed. The policy is decision D4 of the spec, the recorded information is decision D5, and the state
after the fault is what `afterCycle` gives (log entry 8). -/
def Obligations.UndefinedOpcodeRaisedUnderFaultPolicy : Prop :=
  ∀ (s : State) (w : Byte), s.undefPolicy = .fault → fetch s = some w →
    (cycle s = .fault (.undefinedOpcode s.pc w) ↔ opcField w ∈ [0b1000, 0b1010, 0b1100, 0b1101]) ∧
    (opcField w ∈ [0b1000, 0b1010, 0b1100, 0b1101] → afterCycle s = s)

/-- The sentence of R138 that the spec marks as an inference of its own, "[derived: from rule R137 and 40_cycle.md rule R80]
[decision: see 92_eei_decisions.md D15]" (log entry 9): a host that ignores a fault, whatever it writes to the input latch
between the cycles but without a reset, gets the same fault again for ever, and nothing else of the core has changed. -/
def Obligations.FaultRepeatsUntilReset : Prop :=
  ∀ (turns : List (List HostMove)) (s : State) (f : Fault), cycle s = .fault f →
    (∀ ms ∈ turns, ∀ m ∈ ms, m.isReset = false) →
    let u := turns.foldl (fun u ms => afterCycle (u.hostMoves ms)) s
    cycle u = .fault f ∧ u = { s with portIn := u.portIn }

/-- R73: an instruction the decoder can produce under the policy completes, and it writes neither the instruction space, nor the
other parameters of the run, nor the input latch. That the undefined patterns under `alias_adda` are instructions of `exec` is
log entry 16, and that the program, the policy and the schedule are fields it could write is log entries 1 and 3. -/
def Obligations.ExecuteAlwaysCompletes : Prop :=
  ∀ (i : Instr) (s : State), i.wellFormed s.undefPolicy = true →
    ∃ t, exec i s = .next t ∧ s.sameRun t ∧ t.portIn = s.portIn

/-- R74: the program counter after every opcode. The wrap is decision D3 of the spec (log entry 5), the Jnc not taken
decision D11 (log entry 6), and that an undefined pattern under `alias_adda` is an instruction of `exec` is log entry 16. -/
def Obligations.SequencerLaw : Prop :=
  ∀ (i : Instr) (s t : State), exec i s = .next t →
    (jumpTarget i = none → t.pc.toNat = (s.pc.toNat + 1) % 16) ∧
    (∀ k, i = .jmp k → t.pc = k) ∧
    (∀ k, i = .jnc k → t.pc = if s.carry = true then s.pc else k)

/-- R16: the carry after every opcode; the undefined patterns under `alias_adda` as AddA (R133). That an undefined pattern is
an instruction of `exec` is the model's choice of log entry 16. -/
def Obligations.CarryLaw : Prop :=
  ∀ (i : Instr) (s t : State), exec i s = .next t →
    (∀ k, i = .addA k ∨ (i.isUndefined = true ∧ k = i.operand) →
      (t.carry = true ↔ 15 < s.regA.toNat + k.toNat)) ∧
    (∀ k, i = .addB k → (t.carry = true ↔ 15 < s.regB.toNat + k.toNat)) ∧
    ((∀ k, i ≠ .addA k) → (∀ k, i ≠ .addB k) → i.isUndefined = false → t.carry = false)

/-- R16, R93: no opcode but Jnc reads the carry; the adder has no carry in. For an undefined pattern the outcome compared is
the one `exec` answers, log entry 16. -/
def Obligations.OnlyJncReadsTheCarry : Prop :=
  ∀ (i : Instr) (s : State) (b : Bool), (∀ k, i ≠ .jnc k) → exec i (s.setCarry b) = exec i s

/-- R10 to R12, R19: which instructions can change A, B and OUT. That an undefined pattern, a writer of A by R133, is an
instruction of `exec` is the model's choice of log entry 16. -/
def Obligations.WritersOfEachItem : Prop :=
  ∀ (i : Instr) (s t : State), exec i s = .next t →
    (t.regA ≠ s.regA → i.isUndefined = true ∨ i = .inA ∨ ∃ k, i = .addA k ∨ i = .movA k ∨ i = .movBA k) ∧
    (t.regB ≠ s.regB → i = .inB ∨ ∃ k, i = .addB k ∨ i = .movB k ∨ i = .movAB k) ∧
    (t.portOut ≠ s.portOut → i = .outB ∨ ∃ k, i = .outIm k)

/-- R10 to R12: what A and B hold reaches the rest of the state only through the opcodes that read them. That an undefined
pattern, a reader of A by R133, is an instruction of `exec` is the model's choice of log entry 16. -/
def Obligations.ReadersOfTheGeneralRegisters : Prop :=
  ∀ (i : Instr) (s t : State) (v : Nibble), exec i s = .next t →
    (i.isUndefined = false → (∀ k, i ≠ .addA k) → (∀ k, i ≠ .movAB k) →
      ∃ u, exec i (s.setReg .a v) = .next u ∧ { u with regA := t.regA } = t) ∧
    (i ≠ .outB → (∀ k, i ≠ .addB k) → (∀ k, i ≠ .movBA k) →
      ∃ u, exec i (s.setReg .b v) = .next u ∧ { u with regB := t.regB } = t)

/-- R18, R19: only InA and InB read the input latch, and nothing reads the output latch. That an undefined pattern is an
instruction of `exec` is the model's choice of log entry 16. -/
def Obligations.ReadersOfThePortLatches : Prop :=
  ∀ (i : Instr) (s t : State), exec i s = .next t →
    (∀ v, readsInput i = false → exec i (s.setInput v) = .next (t.setInput v)) ∧
    (∀ v, exec i (s.writePort v) = .next (if writesOutput i = true then t else t.writePort v))

/-! ## The instructions -/

/-- R92: the arithmetic of the adder, exact, commutative, with the law of adding the complement. That the complement of `o` added
carries iff `v >= o` is the sentence of R92 on subtraction, which the spec marks as an inference of its own, "[derived: from
the two lines above]". -/
def Obligations.AdderIsExact : Prop :=
  ∀ v o : Nibble, (sumOf v o).toNat = (v.toNat + o.toNat) % 16 ∧
    (carryOf v o = true ↔ 16 ≤ v.toNat + o.toNat) ∧
    v.toNat + o.toNat = 16 * (carryOf v o).toNat + (sumOf v o).toNat ∧ sumOf v o = sumOf o v ∧
    (o ≠ 0 → sumOf (sumOf v o) (-o) = v ∧ (carryOf v (-o) = true ↔ o.toNat ≤ v.toNat))

/-- R90. -/
def Obligations.AddASumCarryAndFrame : Prop :=
  ∀ (k : Nibble) (s : State), decode (0b0000#4 ++ k) = .addA k ∧
    ∃ t, exec (.addA k) s = .next t ∧ t.regA.toNat = (s.regA.toNat + k.toNat) % 16 ∧
      (t.carry = true ↔ 15 < s.regA.toNat + k.toNat) ∧ t.pc.toNat = (s.pc.toNat + 1) % 16 ∧
      t.regB = s.regB ∧ t.portIn = s.portIn ∧ t.portOut = s.portOut ∧ s.sameRun t

/-- R91. -/
def Obligations.AddBSumCarryAndFrame : Prop :=
  ∀ (k : Nibble) (s : State), decode (0b0101#4 ++ k) = .addB k ∧
    ∃ t, exec (.addB k) s = .next t ∧ t.regB.toNat = (s.regB.toNat + k.toNat) % 16 ∧
      (t.carry = true ↔ 15 < s.regB.toNat + k.toNat) ∧ t.pc.toNat = (s.pc.toNat + 1) % 16 ∧
      t.regA = s.regA ∧ t.portIn = s.portIn ∧ t.portOut = s.portOut ∧ s.sameRun t

/-- R100. -/
def Obligations.MovALoadsTheOperand : Prop :=
  ∀ (k : Nibble) (s : State), decode (0b0011#4 ++ k) = .movA k ∧
    ∃ t, exec (.movA k) s = .next t ∧ t.regA = k ∧ t.carry = false ∧ t.pc.toNat = (s.pc.toNat + 1) % 16 ∧
      t.regB = s.regB ∧ t.portIn = s.portIn ∧ t.portOut = s.portOut ∧ s.sameRun t

/-- R101. -/
def Obligations.MovBLoadsTheOperand : Prop :=
  ∀ (k : Nibble) (s : State), decode (0b0111#4 ++ k) = .movB k ∧
    ∃ t, exec (.movB k) s = .next t ∧ t.regB = k ∧ t.carry = false ∧ t.pc.toNat = (s.pc.toNat + 1) % 16 ∧
      t.regA = s.regA ∧ t.portIn = s.portIn ∧ t.portOut = s.portOut ∧ s.sameRun t

/-- R102: A into B. That the kept nibble has no effect is the spec's own decision D12, where its source is silent (note N11; log
entry 7). -/
def Obligations.MovABCopiesAIntoB : Prop :=
  ∀ (x : Nibble) (s : State), decode (0b0001#4 ++ x) = .movAB x ∧
    ∃ t, exec (.movAB x) s = .next t ∧ t.regB = s.regA ∧ t.carry = false ∧ t.pc.toNat = (s.pc.toNat + 1) % 16 ∧
      t.regA = s.regA ∧ t.portIn = s.portIn ∧ t.portOut = s.portOut ∧ s.sameRun t

/-- R103: B into A. That the kept nibble has no effect is the spec's own decision D12, where its source is silent (note N11; log
entry 7). -/
def Obligations.MovBACopiesBIntoA : Prop :=
  ∀ (x : Nibble) (s : State), decode (0b0100#4 ++ x) = .movBA x ∧
    ∃ t, exec (.movBA x) s = .next t ∧ t.regA = s.regB ∧ t.carry = false ∧ t.pc.toNat = (s.pc.toNat + 1) % 16 ∧
      t.regB = s.regB ∧ t.portIn = s.portIn ∧ t.portOut = s.portOut ∧ s.sameRun t

/-- R120: the input latch into A, whatever the ignored nibble is. -/
def Obligations.InALoadsTheInputLatch : Prop :=
  ∀ (x : Nibble) (s : State), decode (0b0010#4 ++ x) = .inA ∧
    ∃ t, exec .inA s = .next t ∧ t.regA = s.portIn ∧ t.carry = false ∧ t.pc.toNat = (s.pc.toNat + 1) % 16 ∧
      t.regB = s.regB ∧ t.portIn = s.portIn ∧ t.portOut = s.portOut ∧ s.sameRun t

/-- R121: the input latch into B, whatever the ignored nibble is. -/
def Obligations.InBLoadsTheInputLatch : Prop :=
  ∀ (x : Nibble) (s : State), decode (0b0110#4 ++ x) = .inB ∧
    ∃ t, exec .inB s = .next t ∧ t.regB = s.portIn ∧ t.carry = false ∧ t.pc.toNat = (s.pc.toNat + 1) % 16 ∧
      t.regA = s.regA ∧ t.portIn = s.portIn ∧ t.portOut = s.portOut ∧ s.sameRun t

/-- R122: B to the output latch, whatever the ignored nibble is. -/
def Obligations.OutBWritesBToTheOutputLatch : Prop :=
  ∀ (x : Nibble) (s : State), decode (0b1001#4 ++ x) = .outB ∧
    ∃ t, exec .outB s = .next t ∧ t.portOut = s.regB ∧ t.carry = false ∧ t.pc.toNat = (s.pc.toNat + 1) % 16 ∧
      t.regA = s.regA ∧ t.regB = s.regB ∧ t.portIn = s.portIn ∧ s.sameRun t

/-- R123. -/
def Obligations.OutImWritesTheOperand : Prop :=
  ∀ (k : Nibble) (s : State), decode (0b1011#4 ++ k) = .outIm k ∧
    ∃ t, exec (.outIm k) s = .next t ∧ t.portOut = k ∧ t.carry = false ∧ t.pc.toNat = (s.pc.toNat + 1) % 16 ∧
      t.regA = s.regA ∧ t.regB = s.regB ∧ t.portIn = s.portIn ∧ s.sameRun t

/-- R110: the target is the operand, not checked in this cycle; past the program the next cycle's fetch faults. -/
def Obligations.JmpSetsTheProgramCounter : Prop :=
  ∀ (k : Nibble) (s : State), decode (0b1111#4 ++ k) = .jmp k ∧
    ∃ t, exec (.jmp k) s = .next t ∧ t.pc = k ∧ t.carry = false ∧ t.regA = s.regA ∧ t.regB = s.regB ∧
      t.portIn = s.portIn ∧ t.portOut = s.portOut ∧ s.sameRun t ∧
      (s.inv → s.prog.size ≤ k.toNat → cycle t = .fault (.addressOutOfRange k))

/-- R111: taken with the carry clear, left on itself with the carry set, the carry cleared in both cases; a taken target past
the program faults at the next cycle's fetch. That a Jnc not taken is not incremented later either is the spec's reading of
its source, decision D11 (log entry 6). -/
def Obligations.JncTakenOnlyWithCarryClear : Prop :=
  ∀ (k : Nibble) (s : State), decode (0b1110#4 ++ k) = .jnc k ∧
    ∃ t, exec (.jnc k) s = .next t ∧ (s.carry = false → t.pc = k) ∧ (s.carry = true → t.pc = s.pc) ∧
      t.carry = false ∧ t.regA = s.regA ∧ t.regB = s.regB ∧ t.portIn = s.portIn ∧ t.portOut = s.portOut ∧
      s.sameRun t ∧
      (s.inv → s.carry = false → s.prog.size ≤ k.toNat → cycle t = .fault (.addressOutOfRange k))

/-- R133: under `alias_adda` each undefined pattern executes as AddA with its low nibble, UndefinedOpcode is never raised, and
every word is an instruction. That the operand is the encoded low nibble is an inference of the spec's own, "[derived: from
30_encoding.md rule R54]" (decision D4), and that `exec` applies the policy is the model's choice; log entry 16 holds both. -/
def Obligations.UndefinedPatternsExecuteAsAddAUnderAlias : Prop :=
  ∀ s : State, s.undefPolicy = .aliasAddA →
    (∀ (k : Nibble) (i : Instr),
      i ∈ [.undefined1000 k, .undefined1010 k, .undefined1100 k, .undefined1101 k] →
      ∃ t, exec i s = .next t ∧ t.regA.toNat = (s.regA.toNat + k.toNat) % 16 ∧
        (t.carry = true ↔ 15 < s.regA.toNat + k.toNat) ∧ t.pc.toNat = (s.pc.toNat + 1) % 16 ∧
        t.regB = s.regB ∧ t.portIn = s.portIn ∧ t.portOut = s.portOut ∧ s.sameRun t) ∧
    (∀ a w, cycle s ≠ .fault (.undefinedOpcode a w)) ∧
    (∀ w, ∃ i, decodeUnder s.undefPolicy w = some i)

/-- Where the model's `exec` stops: exactly on the four patterns, exactly under `fault`, and with the one fault that records the
program counter and the word, which are the patterns, the policy and the record of R132. That the stop is inside `exec`, where
the spec raises the fault before execute and execute cannot fail (R73, R130), is the model's choice of log entry 16. -/
def Obligations.UndefinedPatternsFaultUnderFaultPolicy : Prop :=
  ∀ (i : Instr) (s : State) (f : Fault),
    exec i s = .fault f ↔ i.isUndefined = true ∧ s.undefPolicy = .fault ∧ f = .undefinedOpcode s.pc (encode i)

/-! ## Consequences over several cycles -/

/-- R112, which the spec marks as an inference of its own, "[derived: from rule R111, 40_cycle.md rule R74 and 10_state.md rule
R16]", resting on decision D11 (log entry 6): a Jnc entered with the carry set stays on itself for one cycle and branches in
the next, whatever the host writes to the input latch between the two; entered with the carry clear it branches at once.
Nothing else changes. -/
def Obligations.JncAlwaysBranchesInOneOrTwoCycles : Prop :=
  ∀ (s : State) (w : Byte) (k : Nibble), fetch s = some w → decode w = .jnc k →
    (s.carry = false → cycle s = .next { s with pc := k }) ∧
    (s.carry = true → ∃ t, cycle s = .next t ∧ t = { s with carry := false } ∧
      ∀ ms : List HostMove, (∀ m ∈ ms, m.isReset = false) →
        ∃ u, cycle (t.hostMoves ms) = .next u ∧ u = { s with pc := k, carry := false, portIn := u.portIn })

/-- R113: a jump to an address at or past the length completes, and it is the next fetch that faults, with that address. -/
def Obligations.JumpOutsideFaultsAtTheNextFetch : Prop :=
  ∀ (s : State) (w : Byte) (k : Nibble), s.inv → fetch s = some w → s.prog.size ≤ k.toNat →
    decode w = .jmp k ∨ (decode w = .jnc k ∧ s.carry = false) →
    ∃ t, cycle s = .next t ∧ t.pc = k ∧ t.carry = false ∧ cycle t = .fault (.addressOutOfRange k)

/-- R159: a non-jump instruction in the last word of a short program is followed by AddressOutOfRange, and at address 15 of a
full program by the word at address 0. The spec marks R159 as an inference of its own, "[derived: from 10_state.md rule R15
and 20_memory.md rule R31]", and that a sixteen-word program goes on at address 0 rests on the wrap of decision D3 (log entry
5, unsafe against the reference software). -/
def Obligations.RunningOffTheEnd : Prop :=
  ∀ (ws : List Byte) (s : State) (w : Byte), ws.length ≤ 16 → s.prog = Memory.ofWords ws →
    s.pc.toNat + 1 = ws.length → fetch s = some w → jumpTarget (decode w) = none →
    (decode w).wellFormed s.undefPolicy = true →
    ∃ t, cycle s = .next t ∧
      (ws.length < 16 → t.pc.toNat = ws.length ∧ cycle t = .fault (.addressOutOfRange t.pc)) ∧
      (ws.length = 16 → t.pc = 0 ∧ fetch t = ws[0]?)

/-- R155: the carry is set after a step only if the instruction of that very step, which runs after the host's turn (log
entry 3), was an add that overflowed. The spec marks R155 as an inference of its own, "[derived: from 10_state.md rule R16]";
the add of an undefined pattern under `alias_adda` is R133 and log entry 16. -/
def Obligations.CarryLivesForOneInstruction : Prop :=
  ∀ s t : State, step s = .next t → t.carry = true →
    ∃ w, fetch s.hostTurn = some w ∧
      ((∃ k, decode w = .addA k ∧ 15 < s.hostTurn.regA.toNat + k.toNat) ∨
        (∃ k, decode w = .addB k ∧ 15 < s.hostTurn.regB.toNat + k.toNat) ∨
        ((decode w).isUndefined = true ∧ s.undefPolicy = .aliasAddA ∧
          15 < s.hostTurn.regA.toNat + (immField w).toNat))

/-- R60, R110: a Jmp to its own address leaves the machine, after its first execution, at a fixed point of the cycle. The
spec marks this observation of R60 as an inference of its own, "[derived: from 43_jump.md rule R110]". -/
def Obligations.JumpToItselfIsAFixedPoint : Prop :=
  ∀ (n : Nat) (s : State) (w : Byte), fetch s = some w → decode w = .jmp s.pc →
    afterCycle^[n + 1] s = s.setCarry false

/-- R77, R78: the trace of a run of `n` steps has `n` outputs exactly when no fault ended it, and fewer otherwise; that a
faulting cycle adds no output is the model's choice of log entry 18. -/
def Obligations.TraceEndsEarlyExactlyByAFault : Prop :=
  ∀ (n : Nat) (s : State),
    ((trace n s).1.length = n ↔ (trace n s).2 = none) ∧ (trace n s).1.length ≤ n ∧
    ((trace n s).2 = none ↔ ∃ t, Sys2Proof.core.run n s = .next t)

/-- R19, R158: while the host's schedule (log entry 3) holds no reset and the program no OutB and no OutIm, every output seen
is the one before the run. The outputs are those of `trace`, log entry 18. -/
def Obligations.OutputHoldsWithoutOutputInstructions : Prop :=
  ∀ (n : Nat) (s : State), (∀ ms ∈ s.hostTurns, ∀ m ∈ ms, m.isReset = false) →
    (∀ c ∈ s.prog, writesOutput (decode c.2) = false) → ∀ v ∈ (trace n s).1, v = s.portOut

/-! ## Whole-machine results -/

/-- R76: the cycle is the complete step of R76 written out on numbers, for every program and both policies, and the
parameters and the schedule stay. That the program, the policy and the schedule are fields of the state, which the last
clause says stay, is the model's choice of log entries 1 and 3. -/
def Obligations.CycleIsThePseudocodeOfTheSpec : Prop :=
  ∀ (ws : List Byte) (s : State), ws.length ≤ 16 → s.prog = Memory.ofWords ws →
    Pseudocode.viewOutcome (cycle s) =
      Pseudocode.run (ws.map BitVec.toNat) s.undefPolicy (Pseudocode.view s) ∧
    (∀ t, cycle s = .next t → s.sameRun t)

/-- R6, R152: the reset state meets the invariant, with the empty store of R152, the default policy of R6 and, the model's
choice of log entry 3, a host that makes no move. -/
def Obligations.ResetMeetsTheInvariant : Prop :=
  State.reset.inv ∧ State.reset.prog.wf = true ∧ State.reset.prog.size = 0 ∧ State.reset.undefPolicy = .fault ∧
    State.reset.hostTurns = []

/-- R22, R41: every step, after any turn of the host's schedule (log entry 3), keeps the invariant and the policy, and every
address reads the same word after it. -/
def Obligations.EveryStepKeepsTheInvariant : Prop :=
  ∀ s t : State, s.inv → step s = .next t →
    t.inv ∧ t.prog.wf = true ∧ (∀ a, t.prog.read a = s.prog.read a) ∧ t.undefPolicy = s.undefPolicy

/-- R22, R27, R41: over a run of any length the program and the policy are those at its start. The clause on the schedule, that a
run of `n` steps uses up its first `n` turns, is about the model's own field, the choice of log entry 3. -/
def Obligations.RunNeverChangesProgramOrPolicy : Prop :=
  ∀ (n : Nat) (s t : State), Sys2Proof.core.run n s = .next t →
    t.prog = s.prog ∧ t.undefPolicy = s.undefPolicy ∧ t.hostTurns = s.hostTurns.drop n

/-- R113, R130, R159: a program that the static check finds closed never faults, from any state whose program counter is
inside it, for any number of steps and whatever the host's schedule (log entry 3) does. The check counts address 15 as
followed by address 0, the wrap of decision D3 (log entry 5), a Jnc as staying or branching (log entry 6), and R159 is an
inference of the spec's own. -/
def Obligations.ClosedProgramNeverFaults : Prop :=
  ∀ (n : Nat) (s : State), s.prog.closed s.undefPolicy = true → s.pc.toNat < s.prog.size →
    ∃ t, Sys2Proof.core.run n s = .next t ∧ t.pc.toNat < t.prog.size

/-- R133 and the last sentence of R31: with sixteen words under `alias_adda` no run faults, whatever the words, the state and the host's schedule
(log entry 3). That with sixteen words AddressOutOfRange cannot occur is a sentence the spec marks as its own inference, in
R31 "[derived: from rule R30 and 10_state.md rule R14]" and in R131 "[derived: from 10_state.md rule R17]" (log entry 4). -/
def Obligations.FullProgramUnderAliasNeverFaults : Prop :=
  ∀ (n : Nat) (s : State), s.inv → s.prog.size = 16 → s.undefPolicy = .aliasAddA →
    ∃ t, Sys2Proof.core.run n s = .next t

/-- R18, R157: a program without InA and InB shows the host the same outputs and the same fault whatever the host's schedule
(log entry 3) writes to the input latch. The traces are those of `trace`, log entry 18. -/
def Obligations.InputCannotReachAProgramThatNeverReadsIt : Prop :=
  ∀ (n : Nat) (s t : State), (∀ c ∈ s.prog, readsInput (decode c.2) = false) → s.sameButInput t →
    trace n t = trace n s
end

