-- ==== Sys2Proof/Laws/Decode.lean ====
section
/-! SUPPORT. The fields of an encoded word, and what decode reports of a word built from two fields. -/

namespace Sys2Proof

theorem opcField_encodeFields (c o : Nibble) : opcField (encodeFields c o) = c := by
  revert c o; decide

theorem immField_encodeFields (c o : Nibble) : immField (encodeFields c o) = o := by
  revert c o; decide

/-- A word is the concatenation of its two fields (R51). -/
theorem encodeFields_fields (w : Byte) : encodeFields (opcField w) (immField w) = w := by
  revert w; decide

theorem decode_encodeFields (c o : Nibble) : decode (encodeFields c o) = decodeFields c o := by
  rw [decode, opcField_encodeFields, immField_encodeFields]

end Sys2Proof
end

