-- ==== Sys2Proof/Laws/State.lean ====
section
/-! SUPPORT. One lemma per field and update of State, so that no proof unfolds an update; each holds by computation. -/

namespace Sys2Proof.Machine

@[simp] theorem State.reg_a (s : State) : s.reg .a = s.regA := rfl
@[simp] theorem State.reg_b (s : State) : s.reg .b = s.regB := rfl
@[simp] theorem State.readPort_eq (s : State) : s.readPort = s.portIn := rfl
@[simp] theorem State.output_eq (s : State) : s.output = s.portOut := rfl

@[simp] theorem State.setReg_a_regA (s : State) (v : Nibble) : (s.setReg .a v).regA = v := rfl
@[simp] theorem State.setReg_a_regB (s : State) (v : Nibble) : (s.setReg .a v).regB = s.regB := rfl
@[simp] theorem State.setReg_a_pc (s : State) (v : Nibble) : (s.setReg .a v).pc = s.pc := rfl
@[simp] theorem State.setReg_a_carry (s : State) (v : Nibble) : (s.setReg .a v).carry = s.carry := rfl
@[simp] theorem State.setReg_a_portIn (s : State) (v : Nibble) : (s.setReg .a v).portIn = s.portIn := rfl
@[simp] theorem State.setReg_a_portOut (s : State) (v : Nibble) : (s.setReg .a v).portOut = s.portOut := rfl
@[simp] theorem State.setReg_a_prog (s : State) (v : Nibble) : (s.setReg .a v).prog = s.prog := rfl
@[simp] theorem State.setReg_a_undefPolicy (s : State) (v : Nibble) : (s.setReg .a v).undefPolicy = s.undefPolicy := rfl
@[simp] theorem State.setReg_a_hostTurns (s : State) (v : Nibble) : (s.setReg .a v).hostTurns = s.hostTurns := rfl

@[simp] theorem State.setReg_b_regA (s : State) (v : Nibble) : (s.setReg .b v).regA = s.regA := rfl
@[simp] theorem State.setReg_b_regB (s : State) (v : Nibble) : (s.setReg .b v).regB = v := rfl
@[simp] theorem State.setReg_b_pc (s : State) (v : Nibble) : (s.setReg .b v).pc = s.pc := rfl
@[simp] theorem State.setReg_b_carry (s : State) (v : Nibble) : (s.setReg .b v).carry = s.carry := rfl
@[simp] theorem State.setReg_b_portIn (s : State) (v : Nibble) : (s.setReg .b v).portIn = s.portIn := rfl
@[simp] theorem State.setReg_b_portOut (s : State) (v : Nibble) : (s.setReg .b v).portOut = s.portOut := rfl
@[simp] theorem State.setReg_b_prog (s : State) (v : Nibble) : (s.setReg .b v).prog = s.prog := rfl
@[simp] theorem State.setReg_b_undefPolicy (s : State) (v : Nibble) : (s.setReg .b v).undefPolicy = s.undefPolicy := rfl
@[simp] theorem State.setReg_b_hostTurns (s : State) (v : Nibble) : (s.setReg .b v).hostTurns = s.hostTurns := rfl

@[simp] theorem State.setPc_regA (s : State) (v : Nibble) : (s.setPc v).regA = s.regA := rfl
@[simp] theorem State.setPc_regB (s : State) (v : Nibble) : (s.setPc v).regB = s.regB := rfl
@[simp] theorem State.setPc_pc (s : State) (v : Nibble) : (s.setPc v).pc = v := rfl
@[simp] theorem State.setPc_carry (s : State) (v : Nibble) : (s.setPc v).carry = s.carry := rfl
@[simp] theorem State.setPc_portIn (s : State) (v : Nibble) : (s.setPc v).portIn = s.portIn := rfl
@[simp] theorem State.setPc_portOut (s : State) (v : Nibble) : (s.setPc v).portOut = s.portOut := rfl
@[simp] theorem State.setPc_prog (s : State) (v : Nibble) : (s.setPc v).prog = s.prog := rfl
@[simp] theorem State.setPc_undefPolicy (s : State) (v : Nibble) : (s.setPc v).undefPolicy = s.undefPolicy := rfl
@[simp] theorem State.setPc_hostTurns (s : State) (v : Nibble) : (s.setPc v).hostTurns = s.hostTurns := rfl

@[simp] theorem State.setCarry_regA (s : State) (b : Bool) : (s.setCarry b).regA = s.regA := rfl
@[simp] theorem State.setCarry_regB (s : State) (b : Bool) : (s.setCarry b).regB = s.regB := rfl
@[simp] theorem State.setCarry_pc (s : State) (b : Bool) : (s.setCarry b).pc = s.pc := rfl
@[simp] theorem State.setCarry_carry (s : State) (b : Bool) : (s.setCarry b).carry = b := rfl
@[simp] theorem State.setCarry_portIn (s : State) (b : Bool) : (s.setCarry b).portIn = s.portIn := rfl
@[simp] theorem State.setCarry_portOut (s : State) (b : Bool) : (s.setCarry b).portOut = s.portOut := rfl
@[simp] theorem State.setCarry_prog (s : State) (b : Bool) : (s.setCarry b).prog = s.prog := rfl
@[simp] theorem State.setCarry_undefPolicy (s : State) (b : Bool) : (s.setCarry b).undefPolicy = s.undefPolicy := rfl
@[simp] theorem State.setCarry_hostTurns (s : State) (b : Bool) : (s.setCarry b).hostTurns = s.hostTurns := rfl

@[simp] theorem State.clearCarry_regA (s : State) : s.clearCarry.regA = s.regA := rfl
@[simp] theorem State.clearCarry_regB (s : State) : s.clearCarry.regB = s.regB := rfl
@[simp] theorem State.clearCarry_pc (s : State) : s.clearCarry.pc = s.pc := rfl
@[simp] theorem State.clearCarry_carry (s : State) : s.clearCarry.carry = false := rfl
@[simp] theorem State.clearCarry_portIn (s : State) : s.clearCarry.portIn = s.portIn := rfl
@[simp] theorem State.clearCarry_portOut (s : State) : s.clearCarry.portOut = s.portOut := rfl
@[simp] theorem State.clearCarry_prog (s : State) : s.clearCarry.prog = s.prog := rfl
@[simp] theorem State.clearCarry_undefPolicy (s : State) : s.clearCarry.undefPolicy = s.undefPolicy := rfl
@[simp] theorem State.clearCarry_hostTurns (s : State) : s.clearCarry.hostTurns = s.hostTurns := rfl

@[simp] theorem State.writePort_regA (s : State) (v : Nibble) : (s.writePort v).regA = s.regA := rfl
@[simp] theorem State.writePort_regB (s : State) (v : Nibble) : (s.writePort v).regB = s.regB := rfl
@[simp] theorem State.writePort_pc (s : State) (v : Nibble) : (s.writePort v).pc = s.pc := rfl
@[simp] theorem State.writePort_carry (s : State) (v : Nibble) : (s.writePort v).carry = s.carry := rfl
@[simp] theorem State.writePort_portIn (s : State) (v : Nibble) : (s.writePort v).portIn = s.portIn := rfl
@[simp] theorem State.writePort_portOut (s : State) (v : Nibble) : (s.writePort v).portOut = v := rfl
@[simp] theorem State.writePort_prog (s : State) (v : Nibble) : (s.writePort v).prog = s.prog := rfl
@[simp] theorem State.writePort_undefPolicy (s : State) (v : Nibble) : (s.writePort v).undefPolicy = s.undefPolicy := rfl
@[simp] theorem State.writePort_hostTurns (s : State) (v : Nibble) : (s.writePort v).hostTurns = s.hostTurns := rfl

@[simp] theorem State.advance_regA (s : State) : s.advance.regA = s.regA := rfl
@[simp] theorem State.advance_regB (s : State) : s.advance.regB = s.regB := rfl
@[simp] theorem State.advance_pc (s : State) : s.advance.pc = s.pc + 1 := rfl
@[simp] theorem State.advance_carry (s : State) : s.advance.carry = s.carry := rfl
@[simp] theorem State.advance_portIn (s : State) : s.advance.portIn = s.portIn := rfl
@[simp] theorem State.advance_portOut (s : State) : s.advance.portOut = s.portOut := rfl
@[simp] theorem State.advance_prog (s : State) : s.advance.prog = s.prog := rfl
@[simp] theorem State.advance_undefPolicy (s : State) : s.advance.undefPolicy = s.undefPolicy := rfl
@[simp] theorem State.advance_hostTurns (s : State) : s.advance.hostTurns = s.hostTurns := rfl

@[simp] theorem State.setInput_regA (s : State) (v : Nat) : (s.setInput v).regA = s.regA := rfl
@[simp] theorem State.setInput_regB (s : State) (v : Nat) : (s.setInput v).regB = s.regB := rfl
@[simp] theorem State.setInput_pc (s : State) (v : Nat) : (s.setInput v).pc = s.pc := rfl
@[simp] theorem State.setInput_carry (s : State) (v : Nat) : (s.setInput v).carry = s.carry := rfl
@[simp] theorem State.setInput_portIn (s : State) (v : Nat) : (s.setInput v).portIn = BitVec.ofNat 4 v := rfl
@[simp] theorem State.setInput_portOut (s : State) (v : Nat) : (s.setInput v).portOut = s.portOut := rfl
@[simp] theorem State.setInput_prog (s : State) (v : Nat) : (s.setInput v).prog = s.prog := rfl
@[simp] theorem State.setInput_undefPolicy (s : State) (v : Nat) : (s.setInput v).undefPolicy = s.undefPolicy := rfl
@[simp] theorem State.setInput_hostTurns (s : State) (v : Nat) : (s.setInput v).hostTurns = s.hostTurns := rfl

@[simp] theorem State.resetCore_regA (s : State) : s.resetCore.regA = 0 := rfl
@[simp] theorem State.resetCore_regB (s : State) : s.resetCore.regB = 0 := rfl
@[simp] theorem State.resetCore_pc (s : State) : s.resetCore.pc = 0 := rfl
@[simp] theorem State.resetCore_carry (s : State) : s.resetCore.carry = false := rfl
@[simp] theorem State.resetCore_portIn (s : State) : s.resetCore.portIn = 0 := rfl
@[simp] theorem State.resetCore_portOut (s : State) : s.resetCore.portOut = 0 := rfl
@[simp] theorem State.resetCore_prog (s : State) : s.resetCore.prog = s.prog := rfl
@[simp] theorem State.resetCore_undefPolicy (s : State) : s.resetCore.undefPolicy = s.undefPolicy := rfl
@[simp] theorem State.resetCore_hostTurns (s : State) : s.resetCore.hostTurns = s.hostTurns := rfl

end Sys2Proof.Machine
end

