-- ==== Sys2Proof/Laws/Exec.lean ====
section
/-! SUPPORT. What the shared operations of the meanings do: the adder in plain numbers, and one law each for the add, the
transfer and the undefined patterns. -/

namespace Sys2Proof.Machine

/-- The exact sum of R93: sixteen times the carry and the four-bit result. -/
theorem adder_exact : ∀ v k : Nibble, v.toNat + k.toNat = 16 * (carryOf v k).toNat + (sumOf v k).toNat := by decide

theorem sumOf_toNat (v k : Nibble) : (sumOf v k).toNat = (v.toNat + k.toNat) % 16 := by
  have h := adder_exact v k
  have := (sumOf v k).isLt
  omega

theorem carryOf_eq (v k : Nibble) : carryOf v k = decide (15 < v.toNat + k.toNat) := by
  have h := adder_exact v k
  have := (sumOf v k).isLt
  cases hc : carryOf v k <;> simp [hc] at h ⊢ <;> omega

/-- Everything the add does (R90, R91). -/
theorem addTo_eq (r : Reg) (k : Nibble) (s : State) :
    addTo r k s = ((s.setReg r (sumOf (s.reg r) k)).setCarry (carryOf (s.reg r) k)).setPc (s.pc + 1) := by
  cases r <;> rfl

/-- Everything a transfer does (R104). -/
theorem transfer_eq (dst : Dest) (src : Source) (s : State) :
    transfer dst src s = ((dst.write (src.value s) s).setCarry false).setPc (s.pc + 1) := by
  cases dst with
  | reg r => cases r <;> rfl
  | portOut => rfl

/-- An undefined pattern under `fault` raises UndefinedOpcode (R132). -/
theorem undefinedPattern_fault {s : State} (h : s.undefPolicy = .fault) (opc k : Nibble) :
    undefinedPattern opc k s = .fault (.undefinedOpcode s.pc (encodeFields opc k)) := by
  simp [undefinedPattern, h, raise]

/-- An undefined pattern under `alias_adda` is the add to A (R133). -/
theorem undefinedPattern_aliasAddA {s : State} (h : s.undefPolicy = .aliasAddA) (opc k : Nibble) :
    undefinedPattern opc k s = .next (addTo .a k s) := by
  simp [undefinedPattern, h]

/-- Executing an undefined pattern is the shared operation on its opcode and its nibble. -/
theorem exec_of_isUndefined {i : Instr} (h : i.isUndefined = true) (s : State) :
    exec i s = undefinedPattern i.opcode i.operand s := by
  cases i <;> first | rfl | cases h

/-- The parameters of the run and the input latch are what they were after an add. -/
theorem addTo_keeps (r : Reg) (k : Nibble) (s : State) :
    (addTo r k s).prog = s.prog ∧ (addTo r k s).undefPolicy = s.undefPolicy ∧
      (addTo r k s).hostTurns = s.hostTurns ∧ (addTo r k s).portIn = s.portIn ∧ (addTo r k s).portOut = s.portOut := by
  cases r <;> exact ⟨rfl, rfl, rfl, rfl, rfl⟩

/-- The parameters of the run and the input latch are what they were after a transfer. -/
theorem transfer_keeps (dst : Dest) (src : Source) (s : State) :
    (transfer dst src s).prog = s.prog ∧ (transfer dst src s).undefPolicy = s.undefPolicy ∧
      (transfer dst src s).hostTurns = s.hostTurns ∧ (transfer dst src s).portIn = s.portIn := by
  cases dst with
  | reg r => cases r <;> exact ⟨rfl, rfl, rfl, rfl⟩
  | portOut => exact ⟨rfl, rfl, rfl, rfl⟩

end Sys2Proof.Machine
end

