-- ==== Sys2Proof/Laws/Memory.lean ====
section
/-! SUPPORT. The instruction space: read after put, the canonical form kept by every operation, and what a loaded program
looks like (20_memory.md R30, R31). -/

namespace Sys2Proof.Machine

theorem Memory.read_nil (x : Nat) : Memory.read [] x = none := rfl

theorem Memory.read_cons (c : Host.Cell) (m : Memory) (x : Nat) :
    Memory.read (c :: m) x = if x = c.1 then some c.2 else Memory.read m x := rfl

theorem Memory.read_put_same (m : Memory) (x : Nat) (v : Byte) : (m.put x v).read x = some v := by
  induction m with
  | nil => simp [Memory.put, Memory.read_cons]
  | cons c rest ih =>
    obtain ⟨a, w⟩ := c
    simp only [Memory.put]
    split
    · simp [Memory.read_cons]
    · split
      · simp [Memory.read_cons]
      · rename_i h
        simp [Memory.read_cons, h, ih]

theorem Memory.read_put_other (m : Memory) (x y : Nat) (v : Byte) (hne : y ≠ x) :
    (m.put x v).read y = m.read y := by
  induction m with
  | nil => simp [Memory.put, Memory.read_cons, hne]
  | cons c rest ih =>
    obtain ⟨a, w⟩ := c
    simp only [Memory.put]
    split
    · simp [Memory.read_cons, hne]
    · split
      · rename_i h
        subst h
        simp [Memory.read_cons, hne]
      · simp only [Memory.read_cons, ih]

theorem Memory.wf_iff (m : Memory) :
    m.wf = true ↔ (m.map Prod.fst).Pairwise (· < ·) ∧ ∀ a ∈ m.map Prod.fst, a < Config.maxWords := by
  simp [Memory.wf]

theorem Memory.mem_fst_put {m : Memory} {x y : Nat} {v : Byte} (h : y ∈ (m.put x v).map Prod.fst) :
    y = x ∨ y ∈ m.map Prod.fst := by
  induction m with
  | nil => simpa [Memory.put] using h
  | cons c rest ih =>
    obtain ⟨a, w⟩ := c
    simp only [Memory.put] at h
    split at h
    · simpa using h
    · split at h
      · rename_i hx
        subst hx
        simpa using h
      · rcases List.mem_cons.1 h with h | h
        · exact .inr (by simp [h])
        · rcases ih h with h | h
          · exact .inl h
          · exact .inr (List.mem_cons_of_mem _ h)

/-- Placing a word keeps the canonical form. -/
theorem Memory.put_wf {m : Memory} {x : Nat} (v : Byte) (hm : m.wf = true) (hx : x < Config.maxWords) :
    (m.put x v).wf = true := by
  rw [Memory.wf_iff] at hm ⊢
  refine ⟨?_, fun a ha => ?_⟩
  · obtain ⟨hp, -⟩ := hm
    induction m with
    | nil => simp [Memory.put]
    | cons c rest ih =>
      obtain ⟨a, w⟩ := c
      have hc := List.pairwise_cons.1 hp
      simp only [Memory.put]
      split
      · rename_i hlt
        refine List.pairwise_cons.2 ⟨fun b hb => ?_, hp⟩
        rcases List.mem_cons.1 hb with rfl | hb
        · exact hlt
        · exact lt_trans hlt (hc.1 b hb)
      · split
        · rename_i he
          subst he
          exact List.pairwise_cons.2 hc
        · refine List.pairwise_cons.2 ⟨fun b hb => ?_, ih hc.2⟩
          rcases Memory.mem_fst_put hb with rfl | hb
          · simp only at *
            omega
          · exact hc.1 b hb
  · rcases Memory.mem_fst_put ha with rfl | ha
    · exact hx
    · exact hm.2 a ha

theorem Memory.ofWordsFrom_size (n : Nat) (ws : List Byte) : (Memory.ofWordsFrom n ws).size = ws.length := by
  induction ws generalizing n with
  | nil => rfl
  | cons w ws ih => simpa [Memory.ofWordsFrom, Memory.size] using ih (n + 1)

theorem Memory.ofWords_size (ws : List Byte) : (Memory.ofWords ws).size = ws.length := Memory.ofWordsFrom_size 0 ws

theorem Memory.ofWordsFrom_fst (n : Nat) (ws : List Byte) :
    (Memory.ofWordsFrom n ws).map Prod.fst = List.range' n ws.length := by
  induction ws generalizing n with
  | nil => rfl
  | cons w ws ih => simpa [Memory.ofWordsFrom, List.range'_succ] using ih (n + 1)

theorem Memory.ofWordsFrom_read (n : Nat) (ws : List Byte) (x : Nat) :
    (Memory.ofWordsFrom n ws).read (n + x) = ws[x]? := by
  induction ws generalizing n x with
  | nil => rfl
  | cons w ws ih =>
    cases x with
    | zero => simp [Memory.ofWordsFrom, Memory.read_cons]
    | succ x =>
      have h := ih (n + 1) x
      rw [show n + 1 + x = n + (x + 1) by omega] at h
      simp [Memory.ofWordsFrom, Memory.read_cons, h]

/-- Address `x` of a loaded program reads word `x` of its sequence, and nothing from `L` on (R31). -/
theorem Memory.ofWords_read (ws : List Byte) (x : Nat) : (Memory.ofWords ws).read x = ws[x]? := by
  simpa [Memory.ofWords] using Memory.ofWordsFrom_read 0 ws x

theorem Memory.isProgram_iff (m : Memory) :
    m.isProgram = true ↔ m.map Prod.fst = List.range m.size ∧ m.size ≤ Config.maxWords := by
  simp [Memory.isProgram]

/-- Loading keeps the form of a program. -/
theorem Memory.ofWords_isProgram {ws : List Byte} (h : programWellFormed ws = true) :
    (Memory.ofWords ws).isProgram = true := by
  rw [Memory.isProgram_iff, Memory.ofWords_size]
  refine ⟨?_, by simpa [programWellFormed] using h⟩
  rw [List.range_eq_range']
  exact Memory.ofWordsFrom_fst 0 ws

theorem Memory.eq_ofWordsFrom_of_fst {n : Nat} {m : Memory} (h : m.map Prod.fst = List.range' n m.length) :
    m = Memory.ofWordsFrom n (m.map Prod.snd) := by
  induction m generalizing n with
  | nil => rfl
  | cons c m ih =>
    rw [List.map_cons, List.length_cons, List.range'_succ, List.cons.injEq] at h
    rw [List.map_cons, Memory.ofWordsFrom, ← ih h.2, ← h.1]

/-- A program is the sequence of its words. -/
theorem Memory.eq_ofWords {m : Memory} (h : m.isProgram = true) : m = Memory.ofWords (m.map Prod.snd) := by
  refine Memory.eq_ofWordsFrom_of_fst ?_
  rw [← List.range_eq_range']
  exact ((Memory.isProgram_iff m).1 h).1

/-- The form of a program is a canonical form. -/
theorem Memory.isProgram_wf {m : Memory} (h : m.isProgram = true) : m.wf = true := by
  obtain ⟨h₁, h₂⟩ := (Memory.isProgram_iff m).1 h
  rw [Memory.wf_iff, h₁]
  refine ⟨List.pairwise_lt_range, fun a ha => ?_⟩
  have := List.mem_range.1 ha
  omega

/-- An address of a program holds nothing exactly from `L` on (R31). -/
theorem Memory.read_eq_none_iff {m : Memory} (h : m.isProgram = true) (x : Nat) : m.read x = none ↔ m.size ≤ x := by
  rw [Memory.eq_ofWords h, Memory.ofWords_read, Memory.ofWords_size]
  exact List.getElem?_eq_none_iff

/-- A word read is a word listed at that address. -/
theorem Memory.mem_of_read {m : Memory} {x : Nat} {w : Byte} (h : m.read x = some w) : (x, w) ∈ m := by
  induction m with
  | nil => cases h
  | cons c m ih =>
    rw [Memory.read_cons] at h
    split at h
    · cases h
      rename_i hx
      subst hx
      exact List.mem_cons_self
    · exact List.mem_cons_of_mem _ (ih h)

theorem State.reset_wf : State.reset.prog.wf = true := rfl

end Sys2Proof.Machine
end

