-- ==== Sys2Proof/Laws/PerInstr.lean ====
section
/-! SUPPORT. A law per constructor of Instr: the word of an instruction has the opcode of the table in its high nibble and the
operand decode reports in its low nibble (30_encoding.md R51, R61). -/

namespace Sys2Proof.Laws.WordFields

/-- The two fields of the instruction's word. -/
def Statement (i : Instr) : Prop := opcField (encode i) = i.opcode ∧ immField (encode i) = i.operand

theorem fields (i : Instr) : Statement i := ⟨opcField_encodeFields _ _, immField_encodeFields _ _⟩

theorem addA (k : Nibble) : Statement (.addA k) := fields _
theorem movAB (x : Nibble) : Statement (.movAB x) := fields _
theorem inA : Statement .inA := fields _
theorem movA (k : Nibble) : Statement (.movA k) := fields _
theorem movBA (x : Nibble) : Statement (.movBA x) := fields _
theorem addB (k : Nibble) : Statement (.addB k) := fields _
theorem inB : Statement .inB := fields _
theorem movB (k : Nibble) : Statement (.movB k) := fields _
theorem undefined1000 (k : Nibble) : Statement (.undefined1000 k) := fields _
theorem outB : Statement .outB := fields _
theorem undefined1010 (k : Nibble) : Statement (.undefined1010 k) := fields _
theorem outIm (k : Nibble) : Statement (.outIm k) := fields _
theorem undefined1100 (k : Nibble) : Statement (.undefined1100 k) := fields _
theorem undefined1101 (k : Nibble) : Statement (.undefined1101 k) := fields _
theorem jnc (target : Nibble) : Statement (.jnc target) := fields _
theorem jmp (target : Nibble) : Statement (.jmp target) := fields _

end Sys2Proof.Laws.WordFields
end

