-- ==== Sys2Proof/Laws/Step.lean ====
section
/-! SUPPORT. The cycle by cases of the fetch, and what the host's turn can do. -/

namespace Sys2Proof.Machine

theorem cycle_of_fetch_none {s : State} (h : fetch s = none) : cycle s = .fault (.addressOutOfRange s.pc) := by
  simp [cycle, h, raise]

theorem cycle_of_fetch_some {s : State} {w : Byte} (h : fetch s = some w) : cycle s = exec (decode w) s := by
  simp [cycle, h]

/-- A program's fetch finds nothing exactly from `L` on (R31). -/
theorem fetch_eq_none_iff {s : State} (h : s.prog.isProgram = true) : fetch s = none ↔ s.prog.size ≤ s.pc.toNat :=
  Memory.read_eq_none_iff h _

/-- The host's moves leave the program, the policy and the schedule. -/
theorem State.hostMoves_keeps (s : State) (ms : List HostMove) :
    (s.hostMoves ms).prog = s.prog ∧ (s.hostMoves ms).undefPolicy = s.undefPolicy ∧
      (s.hostMoves ms).hostTurns = s.hostTurns := by
  induction ms generalizing s with
  | nil => exact ⟨rfl, rfl, rfl⟩
  | cons m ms ih =>
    obtain ⟨h₁, h₂, h₃⟩ := ih (s.hostMove m)
    cases m <;> exact ⟨h₁, h₂, h₃⟩

/-- The host's turn leaves the program and the policy and uses up one turn of the schedule. -/
theorem State.hostTurn_keeps (s : State) :
    s.hostTurn.prog = s.prog ∧ s.hostTurn.undefPolicy = s.undefPolicy ∧
      s.hostTurn.hostTurns = s.hostTurns.drop 1 := by
  cases h : s.hostTurns with
  | nil => simp [State.hostTurn, h]
  | cons ms rest => simpa [State.hostTurn, h] using State.hostMoves_keeps { s with hostTurns := rest } ms

/-- With an empty schedule the host does nothing. -/
theorem State.hostTurn_nil {s : State} (h : s.hostTurns = []) : s.hostTurn = s := by
  simp [State.hostTurn, h]

/-- The placed word is what the next step fetches, and the host is idle before it. -/
theorem State.placeWord_fetch (s : State) (w : Byte) : fetch (s.placeWord w).hostTurn = some w := by
  have hp : (s.placeWord w).prog.read s.pc.toNat = some w := Memory.read_put_same _ _ _
  unfold State.hostTurn
  split
  · exact hp
  · rename_i ms rest h
    cases hs : s.hostTurns with
    | nil => simp [State.placeWord, hs] at h
    | cons m r =>
      simp only [State.placeWord, hs, List.cons.injEq] at h
      rw [← h.1]
      exact hp

/-- The placed word keeps the canonical form of the instruction space. -/
theorem State.placeWord_wf {s : State} (w : Byte) (h : s.prog.wf = true) : (s.placeWord w).prog.wf = true :=
  Memory.put_wf w h s.pc.isLt

end Sys2Proof.Machine
end

