-- ==== Sys2Proof/Laws/Run.lean ====
section
/-! SUPPORT. One step of a run unfolded, a faulting cycle seen from the host, and host turns without a reset. -/

namespace Sys2Proof.Machine

theorem run_succ_of_next {s t : State} (n : Nat) (h : step s = .next t) :
    Sys2Proof.core.run (n + 1) s = Sys2Proof.core.run n t := by
  have h' : Sys2Proof.core.step s = _ := h
  simp only [Host.Core.run]
  rw [h']

theorem run_succ_of_fault {s : State} {f : Fault} (n : Nat) (h : step s = .fault f) :
    Sys2Proof.core.run (n + 1) s = .fault f := by
  have h' : Sys2Proof.core.step s = _ := h
  simp only [Host.Core.run]
  rw [h']

theorem afterCycle_of_fault {s : State} {f : Fault} (h : cycle s = .fault f) : afterCycle s = s := by
  simp [afterCycle, h]

theorem State.hostMoves_append (s : State) (ms ms' : List HostMove) :
    s.hostMoves (ms ++ ms') = (s.hostMoves ms).hostMoves ms' := by
  induction ms generalizing s with
  | nil => rfl
  | cons m ms ih => exact ih _

/-- Moves without a reset change the input latch only. -/
theorem State.hostMoves_of_noReset (s : State) (ms : List HostMove) (h : ∀ m ∈ ms, m.isReset = false) :
    s.hostMoves ms = { s with portIn := (s.hostMoves ms).portIn } := by
  induction ms generalizing s with
  | nil => rfl
  | cons m ms ih =>
    cases m with
    | setInput v => exact ih (s.setInput v) (fun m hm => h m (List.mem_cons_of_mem _ hm))
    | reset => simp [HostMove.isReset] at h

end Sys2Proof.Machine
end

