-- ==== Sys2Proof/Tests/Slice0.lean ====
section
/-! SUPPORT. The model's own tests. Expected results come from 95_test_vectors.md (the vector's name in each comment) and from
the examples of the instruction rules; a witness meets together the hypotheses of the statement it is named after. -/

namespace Sys2Proof.Tests

open Sys2Proof.Machine

/-- The next state of an outcome. -/
def nextOf : Host.Outcome State Fault Refusal → Option State
  | .next s => some s
  | .fault _ => none
  | .refused _ => none

/-- The fault of an outcome. -/
def faultOf : Host.Outcome State Fault Refusal → Option Fault
  | .next _ => none
  | .fault f => some f
  | .refused _ => none

/-- The start `A B PC C IN OUT` of 95_test_vectors.md over a program, default policy, an idle host. -/
def start (a b pc : Nibble) (c : Bool) (inp out : Nibble) (ws : List Byte) : State where
  regA := a
  regB := b
  pc := pc
  carry := c
  portIn := inp
  portOut := out
  prog := Memory.ofWords ws
  undefPolicy := .fault
  hostTurns := []

/-- A program of sixteen words, each of them `w`, so that `w` is the word at every program counter. -/
def full (w : Byte) : List Byte := List.replicate 16 w

/-- One step from a vector's start with the word at its program counter. -/
def one (a b pc : Nibble) (c : Bool) (inp out : Nibble) (w : Byte) : Option State :=
  nextOf (step (start a b pc c inp out (full w)))

/-! ## Well-formedness: an ill-formed term for each check -/

theorem test_wellFormed_refuses_undefined1000 : (Instr.undefined1000 3).wellFormed .fault = false := by decide
theorem test_wellFormed_refuses_undefined1010 : (Instr.undefined1010 0).wellFormed .fault = false := by decide
theorem test_wellFormed_refuses_undefined1100 : (Instr.undefined1100 8).wellFormed .fault = false := by decide
theorem test_wellFormed_refuses_undefined1101 : (Instr.undefined1101 15).wellFormed .fault = false := by decide
theorem test_wellFormed_alias_admits_undefined : (Instr.undefined1000 3).wellFormed .aliasAddA = true := by decide
theorem test_programWellFormed_refuses_seventeen : programWellFormed (List.replicate 17 0) = false := by decide
theorem test_programWellFormed_admits_sixteen : programWellFormed (full 0) = true := by decide
theorem test_memory_wf_refuses_falling : Memory.wf [(1, 0), (0, 0)] = false := by decide
theorem test_memory_wf_refuses_address_16 : Memory.wf [(16, 0)] = false := by decide
theorem test_isProgram_refuses_hole : Memory.isProgram [(0, 0), (2, 0)] = false := by decide

/-! ## Decoding: words written out bit by bit from R53 (S4 of 95_test_vectors.md) -/

theorem test_decode_addA : decode 0b00000000 = .addA 0 := by decide
theorem test_decode_movAB : decode 0b00010111 = .movAB 7 := by decide
theorem test_decode_inA : decode 0b00101011 = .inA := by decide
theorem test_decode_movA : decode 0b00111111 = .movA 15 := by decide
theorem test_decode_movBA : decode 0b01000000 = .movBA 0 := by decide
theorem test_decode_addB : decode 0b01011010 = .addB 10 := by decide
theorem test_decode_inB : decode 0b01100110 = .inB := by decide
theorem test_decode_movB : decode 0b01110000 = .movB 0 := by decide
theorem test_decode_undefined1000 : decode 0b10000000 = .undefined1000 0 := by decide
theorem test_decode_outB : decode 0b10011111 = .outB := by decide
theorem test_decode_undefined1010 : decode 0b10100101 = .undefined1010 5 := by decide
theorem test_decode_outIm : decode 0b10110011 = .outIm 3 := by decide
theorem test_decode_undefined1100 : decode 0b11000000 = .undefined1100 0 := by decide
theorem test_decode_undefined1101 : decode 0b11011111 = .undefined1101 15 := by decide
theorem test_decode_jnc : decode 0b11100100 = .jnc 4 := by decide
theorem test_decode_jmp : decode 0b11111001 = .jmp 9 := by decide
theorem test_decodeUnder_fault : decodeUnder .fault 0xA5 = none := by decide
theorem test_decodeUnder_alias : decodeUnder .aliasAddA 0xA5 = some (.addA 5) := by decide
theorem test_decodeBytes : decodeBytes [0xF9, 0x00] = some (.jmp 9, [0x00]) := by decide
theorem test_encode_ignored_nibble : encode .inB = 0x60 := by decide
theorem test_decodeTableWord : decodeTableWord 8 0xE5 = some (.jnc 5) := by decide
theorem test_decodeTableWord_other_width : decodeTableWord 16 0xE5 = none := by decide

/-! ## One instruction each -/

/-- V-A3: the largest sum. -/
theorem test_addA_largest_sum : (one 15 0 0 false 0 0 0x0F).map (fun s => (s.regA, s.carry)) = some (14, true) := by
  decide
/-- V-A5: the old carry is not added, and it is cleared. -/
theorem test_addA_no_carry_in : (one 7 0 0 true 0 0 0x08).map (fun s => (s.regA, s.carry)) = some (15, false) := by
  decide
/-- V-A9: the program counter wraps. -/
theorem test_addB_pc_wraps : (one 2 6 15 true 0 0 0x55).map (fun s => (s.regA, s.regB, s.pc, s.carry)) =
    some (2, 11, 0, false) := by decide
/-- V-A10. -/
theorem test_addB_carry : (one 0 15 9 false 0 0 0x5F).map (fun s => (s.regB, s.pc, s.carry)) =
    some (14, 10, true) := by decide
/-- V-M1. -/
theorem test_movA_clears_carry : (one 7 0 0 true 0 0 0x3E).map (fun s => (s.regA, s.carry, s.pc)) =
    some (14, false, 1) := by decide
/-- V-M4. -/
theorem test_movB : (one 0 5 14 true 0 0 0x7F).map (fun s => (s.regA, s.regB, s.pc)) = some (0, 15, 15) := by decide
/-- V-M6: A into B, the low nibble has no effect. -/
theorem test_movAB_direction : (one 9 2 6 false 0 0 0x1F).map (fun s => (s.regA, s.regB)) = some (9, 9) := by decide
/-- V-M8: B into A, the low nibble has no effect. -/
theorem test_movBA_direction : (one 3 12 1 true 0 0 0x4A).map (fun s => (s.regA, s.regB, s.carry)) =
    some (12, 12, false) := by decide
/-- V-J1. -/
theorem test_jmp_no_increment : (one 0 0 9 true 0 0 0xF2).map (fun s => (s.pc, s.carry)) = some (2, false) := by decide
/-- V-J6. -/
theorem test_jmp_highest : (one 0 0 15 false 0 0 0xFF).map (fun s => s.pc) = some 15 := by decide
/-- V-J3. -/
theorem test_jnc_taken : (one 0 0 2 false 0 0 0xE5).map (fun s => s.pc) = some 5 := by decide
/-- V-J4: the program counter stays on the Jnc. -/
theorem test_jnc_not_taken : (one 0 0 2 true 0 0 0xE5).map (fun s => (s.pc, s.carry)) = some (2, false) := by decide
/-- V-I2: the low nibble is ignored, not added; the latch keeps its value. -/
theorem test_inA : (one 3 0 0 false 10 0 0x2F).map (fun s => (s.regA, s.portIn)) = some (10, 10) := by decide
/-- V-I3. -/
theorem test_inB : (one 0 0 7 false 4 0 0x6C).map (fun s => (s.regB, s.pc)) = some (4, 8) := by decide
/-- V-I5: A is not output. -/
theorem test_outB : (one 5 13 2 false 0 7 0x9F).map (fun s => (s.regA, s.portOut)) = some (5, 13) := by decide
/-- V-I7. -/
theorem test_outIm : (one 0 0 15 true 0 9 0xB0).map (fun s => (s.portOut, s.carry, s.pc)) = some (0, false, 0) := by
  decide
/-- V-U1, `fault`. -/
theorem test_undefined1000_fault : faultOf (step (start 9 4 1 false 0 0 (full 0x8F))) =
    some (.undefinedOpcode 1 0x8F) := by decide
/-- V-U1, `alias_adda`. -/
theorem test_undefined1000_alias :
    (nextOf (step { start 9 4 1 false 0 0 (full 0x8F) with undefPolicy := .aliasAddA })).map
      (fun s => (s.regA, s.regB, s.pc, s.carry)) = some (8, 4, 2, true) := by decide
/-- V-U3, `fault`. -/
theorem test_undefined1010_fault : faultOf (step (start 9 4 1 false 0 0 (full 0xA0))) =
    some (.undefinedOpcode 1 0xA0) := by decide
/-- V-U3, `alias_adda`. -/
theorem test_undefined1010_alias :
    (nextOf (step { start 9 4 1 false 0 0 (full 0xA0) with undefPolicy := .aliasAddA })).map
      (fun s => (s.regA, s.pc, s.carry)) = some (9, 2, false) := by decide
/-- V-U2, `fault`. -/
theorem test_undefined1100_fault : faultOf (step (start 9 4 1 false 0 0 (full 0xC8))) =
    some (.undefinedOpcode 1 0xC8) := by decide
/-- V-U2, `alias_adda`. -/
theorem test_undefined1100_alias :
    (nextOf (step { start 9 4 1 false 0 0 (full 0xC8) with undefPolicy := .aliasAddA })).map
      (fun s => (s.regA, s.pc, s.carry)) = some (1, 2, true) := by decide
/-- V-U4, `fault`. -/
theorem test_undefined1101_fault : faultOf (step (start 9 4 1 false 0 0 (full 0xD1))) =
    some (.undefinedOpcode 1 0xD1) := by decide
/-- V-U4, `alias_adda`. -/
theorem test_undefined1101_alias :
    (nextOf (step { start 9 4 1 false 0 0 (full 0xD1) with undefPolicy := .aliasAddA })).map
      (fun s => (s.regA, s.pc, s.carry)) = some (10, 2, false) := by decide

/-! ## Fetch, the host, the interface -/

/-- V-F1. -/
theorem test_reset_without_program_faults : faultOf (step State.reset) = some (.addressOutOfRange 0) := by decide
/-- V-F2. -/
theorem test_fetch_at_length_faults :
    faultOf (step (start 0 5 4 false 0 0 [0x37, 0x09, 0x10, 0x55])) = some (.addressOutOfRange 4) := by decide
/-- V-H1. -/
theorem test_setInput_masks : (State.reset.hostMove (.setInput 0x1A)).portIn = 10 := by decide
/-- V-H2. -/
theorem test_output : (start 0 0 3 false 0 12 []).output = 12 := by decide
/-- V-H3. -/
theorem test_host_reset : (start 7 9 4 true 3 12 [0xB1]).hostMove .reset = start 0 0 0 false 0 0 [0xB1] := by decide
/-- S1: `OutIm 3` placed after reset. -/
theorem test_withFetchWord_first_step :
    (nextOf (step (State.reset.withFetchWord 8 0xB3))).map (fun s => (s.output, s.pc)) = some (3, 1) := by decide
/-- The host's turn before the placed word is idle, and the later turns stay. -/
theorem test_withFetchWord_idles_host :
    (({ start 1 0 5 false 0 0 [] with hostTurns := [[.reset], [.setInput 3]] } : State).withFetchWord 8 0x01).hostTurns =
      [[], [.setInput 3]] := by decide
/-- P1, cycle 4: the input set before a cycle is the one InB reads in it. -/
theorem test_echo_reads_new_input :
    (nextOf (step { start 0 9 0 false 9 9 [0x60, 0x90, 0xF0] with hostTurns := [[.setInput 4]] })).map
      (fun s => (s.regB, s.portIn, s.portOut)) = some (4, 4, 9) := by decide
/-- P3: the outputs of the run, and the fault at address 4. -/
theorem test_trace_running_off_the_end :
    trace 6 (start 0 0 0 false 0 0 [0x37, 0x09, 0x10, 0x55]) = ([0, 0, 0, 0], some (.addressOutOfRange 4)) := by decide
/-- S1 by the pseudocode of R76. -/
theorem test_pseudocode_outIm :
    Pseudocode.run [0xB3] .fault ⟨0, 0, 0, 0, 0, 0⟩ = .next ⟨0, 0, 1, 0, 0, 3⟩ := by decide

/-! ## Witnesses: the hypotheses of each statement, met together -/

theorem test_witness_LoadedProgramDecodesAtEveryAddress :
    (List.replicate 16 (Instr.movAB 7)).length ≤ 16 ∧ ([] : List Instr).length ≤ 16 := by decide
theorem test_witness_UndefinedWordsAreTheSixtyFour :
    decodeUnder .fault 0x80 = none ∧ decodeUnder .fault 0x8F = none ∧ decodeUnder .fault 0xDF = none ∧
      decodeUnder .fault 0x90 ≠ none := by decide
theorem test_witness_ExecuteFollowsDecodeUnderThePolicy :
    decodeUnder (start 0 0 0 false 0 0 []).undefPolicy 0x0F = some (.addA 15) ∧
      decodeUnder (start 0 0 0 false 0 0 []).undefPolicy 0xC8 = none := by decide
theorem test_witness_LoadAndResetDoNotInteract : (full 0x51).length ≤ 16 ∧ 16 < (0x51 :: full 0x51).length := by decide

/-- A state whose host sets the input before the next cycle. -/
def fed (w : Byte) : State := { start 0 13 0 false 0 0 [w] with hostTurns := [[.reset, .setInput 0x1A]] }

theorem test_witness_PortValuesPassBetweenHostAndCycle :
    (fed 0x20).hostTurns = ([.reset] ++ [.setInput 0x1A]) :: [] ∧
      fetch (fed 0x20).hostTurn = some 0x20 ∧ decode 0x20 = .inA ∧
      fetch (fed 0x60).hostTurn = some 0x60 ∧ decode 0x60 = .inB ∧
      fetch (fed 0x90).hostTurn = some 0x90 ∧ decode 0x90 = .outB ∧
      fetch (fed 0xBF).hostTurn = some 0xBF ∧ decode 0xBF = .outIm 15 := by decide
theorem test_witness_OnlyTheHostWritesTheInputLatch :
    (∃ t, step (fed 0x20) = .next t) ∧ (∃ t, step (start 3 0 0 true 10 0 [0x20]) = .next t) ∧
      ∀ ms ∈ (start 3 0 0 true 10 0 [0x20]).hostTurns.head?, ms = [] :=
  ⟨⟨_, rfl⟩, ⟨_, rfl⟩, by decide⟩
theorem test_witness_StepRunsTheDecodedInstruction :
    (fed 0x20).hostTurn.prog.read (fed 0x20).hostTurn.pc.toNat = some 0x20 ∧
      (start 9 0 15 false 0 0 (full 0xC8)).hostTurn.prog.read 15 = some 0xC8 ∧
      (start 9 0 15 false 0 0 (full 0xC8)).hostTurns = [] := by decide
theorem test_witness_FetchReadsTheProgramOrFaults :
    ((full 0x51).length ≤ 16 ∧ (full 0x51).length = 16 ∧
        (start 0 0 15 false 0 0 (full 0x51)).prog = Memory.ofWords (full 0x51)) ∧
      (([0x51] : List Byte).length ≤ (start 0 0 1 false 0 0 [0x51]).pc.toNat ∧
        (start 0 0 1 false 0 0 [0x51]).prog = Memory.ofWords [0x51]) ∧
      (([] : List Byte).length = 0 ∧ State.reset.prog = Memory.ofWords []) := by decide
theorem test_witness_CycleFaultsExactlyWhenTheRulesSay :
    ((start 0 0 1 false 0 0 [0xC8]).prog.isProgram = true ∧
        (start 0 0 1 false 0 0 [0xC8]).prog.size ≤ (start 0 0 1 false 0 0 [0xC8]).pc.toNat) ∧
      ((start 0 0 0 false 0 0 [0xC8]).prog.isProgram = true ∧
        (start 0 0 0 false 0 0 [0xC8]).pc.toNat < (start 0 0 0 false 0 0 [0xC8]).prog.size ∧
        opcField 0xC8 ∈ [0b1000, 0b1010, 0b1100, 0b1101]) ∧
      ((start 0 0 15 false 0 0 (full 0x9F)).prog.isProgram = true ∧
        opcField 0x9F ∉ [(0b1000 : Nibble), 0b1010, 0b1100, 0b1101]) := by decide
theorem test_witness_UndefinedOpcodeRaisedUnderFaultPolicy :
    (start 0 0 0 false 0 0 [0xC8]).undefPolicy = .fault ∧ fetch (start 0 0 0 false 0 0 [0xC8]) = some 0xC8 ∧
      opcField 0xC8 ∈ [0b1000, 0b1010, 0b1100, 0b1101] := by decide
theorem test_witness_FaultRepeatsUntilReset :
    cycle (start 0 5 4 false 0 0 []) = .fault (.addressOutOfRange 4) ∧
      (∀ ms ∈ [[HostMove.setInput 3], []], ∀ m ∈ ms, m.isReset = false) := ⟨rfl, by decide⟩
theorem test_witness_ExecuteAlwaysCompletes :
    (Instr.jmp 15).wellFormed (start 0 0 0 false 0 0 []).undefPolicy = true ∧
      (Instr.undefined1101 15).wellFormed
        { start 0 0 0 false 0 0 [] with undefPolicy := .aliasAddA }.undefPolicy = true := by decide
theorem test_witness_exec_answers_next :
    (∃ t, exec (.addA 15) (start 15 0 15 true 0 0 []) = .next t ∧ t.regA ≠ (start 15 0 15 true 0 0 []).regA) ∧
      (∃ t, exec (.addB 15) (start 0 15 15 true 0 0 []) = .next t ∧ t.regB ≠ (start 0 15 15 true 0 0 []).regB) ∧
      (∃ t, exec (.outIm 7) (start 0 0 15 true 0 0 []) = .next t ∧ t.portOut ≠ (start 0 0 15 true 0 0 []).portOut) ∧
      (∃ t, exec (.jmp 0) (start 0 0 15 true 0 0 []) = .next t) ∧
      (∃ t, exec (.jnc 0) (start 0 0 15 true 0 0 []) = .next t) ∧
      (∃ t, exec (.undefined1000 15) { start 15 0 15 true 0 0 [] with undefPolicy := .aliasAddA } = .next t) ∧
      jumpTarget (.outIm 7) = none ∧ readsInput (.outIm 7) = false ∧ (Instr.outIm 7).isUndefined = false :=
  ⟨⟨_, rfl, by decide⟩, ⟨_, rfl, by decide⟩, ⟨_, rfl, by decide⟩, ⟨_, rfl⟩, ⟨_, rfl⟩, ⟨_, rfl⟩, rfl, rfl, rfl⟩
theorem test_witness_SequencerLaw :
    (∃ t, exec .inA (start 0 0 15 true 9 0 []) = .next t) ∧ jumpTarget .inA = none ∧
      (∃ t, exec (.jnc 0) (start 0 0 15 false 0 0 []) = .next t) :=
  ⟨⟨_, rfl⟩, rfl, ⟨_, rfl⟩⟩
theorem test_witness_CarryLaw :
    (∃ t, exec (.addA 1) (start 15 0 0 false 0 0 []) = .next t) ∧
      (∃ t, exec .outB (start 15 0 0 true 0 0 []) = .next t) ∧ Instr.outB.isUndefined = false :=
  ⟨⟨_, rfl⟩, ⟨_, rfl⟩, rfl⟩
theorem test_witness_OnlyJncReadsTheCarry : (∀ k, Instr.addA 1 ≠ .jnc k) ∧ (∀ k, Instr.undefined1000 1 ≠ .jnc k) :=
  ⟨fun _ h => (nomatch h), fun _ h => (nomatch h)⟩
theorem test_witness_ReadersOfTheGeneralRegisters :
    (∃ t, exec (.movBA 3) (start 1 2 0 true 0 0 []) = .next t) ∧ (Instr.movBA 3).isUndefined = false ∧
      (∀ k, Instr.movBA 3 ≠ .addA k) ∧ (∀ k, Instr.movBA 3 ≠ .movAB k) ∧
      (∃ t, exec (.movAB 3) (start 1 2 0 true 0 0 []) = .next t) ∧ Instr.movAB 3 ≠ .outB ∧
      (∀ k, Instr.movAB 3 ≠ .addB k) ∧ (∀ k, Instr.movAB 3 ≠ .movBA k) :=
  ⟨⟨_, rfl⟩, rfl, fun _ h => (nomatch h), fun _ h => (nomatch h), ⟨_, rfl⟩, by decide, fun _ h => (nomatch h),
    fun _ h => (nomatch h)⟩
theorem test_witness_ReadersOfThePortLatches :
    (∃ t, exec (.movA 3) (start 1 2 0 true 5 6 []) = .next t) ∧ readsInput (.movA 3) = false := ⟨⟨_, rfl⟩, rfl⟩
theorem test_witness_AdderIsExact : (15 : Nibble) ≠ 0 := by decide
theorem test_witness_JmpSetsTheProgramCounter :
    (start 0 0 0 false 0 0 [0xF1]).prog.isProgram = true ∧
      (start 0 0 0 false 0 0 [0xF1]).prog.size ≤ (1 : Nibble).toNat := by decide
theorem test_witness_JncTakenOnlyWithCarryClear :
    (start 0 0 0 false 0 0 [0xE1]).prog.isProgram = true ∧ (start 0 0 0 false 0 0 [0xE1]).carry = false ∧
      (start 0 0 0 false 0 0 [0xE1]).prog.size ≤ (1 : Nibble).toNat ∧ (start 0 0 0 true 0 0 [0xE1]).carry = true := by
  decide
theorem test_witness_UndefinedPatternsExecuteAsAddAUnderAlias :
    ({ start 9 4 1 false 0 0 [] with undefPolicy := .aliasAddA } : State).undefPolicy = .aliasAddA ∧
      Instr.undefined1101 1 ∈
        [Instr.undefined1000 1, .undefined1010 1, .undefined1100 1, .undefined1101 1] := by decide
theorem test_witness_UndefinedPatternsFaultUnderFaultPolicy :
    exec (.undefined1100 8) (start 9 4 1 false 0 0 []) = .fault (.undefinedOpcode 1 0xC8) := rfl
theorem test_witness_JncAlwaysBranchesInOneOrTwoCycles :
    fetch (start 0 0 2 true 0 0 (full 0xE5)) = some 0xE5 ∧ decode 0xE5 = .jnc 5 ∧
      (start 0 0 2 true 0 0 (full 0xE5)).carry = true ∧ (start 0 0 2 false 0 0 (full 0xE5)).carry = false ∧
      fetch (start 0 0 2 false 0 0 (full 0xE5)) = some 0xE5 ∧
      ∀ m ∈ [HostMove.setInput 9], m.isReset = false := by decide
theorem test_witness_JumpOutsideFaultsAtTheNextFetch :
    ((start 0 0 1 false 0 1 [0xB1, 0xF9]).prog.isProgram = true ∧
        fetch (start 0 0 1 false 0 1 [0xB1, 0xF9]) = some 0xF9 ∧
        (start 0 0 1 false 0 1 [0xB1, 0xF9]).prog.size ≤ (9 : Nibble).toNat ∧ decode 0xF9 = .jmp 9) ∧
      (fetch (start 0 0 0 false 0 0 [0xE1]) = some 0xE1 ∧ (start 0 0 0 false 0 0 [0xE1]).prog.isProgram = true ∧
        (start 0 0 0 false 0 0 [0xE1]).prog.size ≤ (1 : Nibble).toNat ∧ decode 0xE1 = .jnc 1 ∧
        (start 0 0 0 false 0 0 [0xE1]).carry = false) := by decide
theorem test_witness_RunningOffTheEnd :
    ((start 0 0 3 false 0 0 [0x37, 0x09, 0x10, 0x55]).pc.toNat + 1 = 4 ∧
        fetch (start 0 0 3 false 0 0 [0x37, 0x09, 0x10, 0x55]) = some 0x55 ∧ jumpTarget (decode 0x55) = none ∧
        (decode 0x55).wellFormed .fault = true) ∧
      ((start 0 15 15 false 0 0 (full 0x90)).pc.toNat + 1 = (full 0x90).length ∧ (full 0x90).length = 16 ∧
        fetch (start 0 15 15 false 0 0 (full 0x90)) = some 0x90 ∧ jumpTarget (decode 0x90) = none ∧
        (decode 0x90).wellFormed .fault = true) := by decide
theorem test_witness_CarryLivesForOneInstruction :
    ∃ t, step (start 15 0 0 false 0 0 [0x01]) = .next t ∧ t.carry = true := ⟨_, rfl, by decide⟩
theorem test_witness_JumpToItselfIsAFixedPoint :
    fetch (start 1 1 6 true 0 12 (full 0xF6)) = some 0xF6 ∧
      decode 0xF6 = .jmp (start 1 1 6 true 0 12 (full 0xF6)).pc := by decide
theorem test_witness_OutputHoldsWithoutOutputInstructions :
    (∀ ms ∈ ({ start 0 0 0 false 0 7 [0x01, 0xF0] with hostTurns := [[.setInput 3]] } : State).hostTurns,
        ∀ m ∈ ms, m.isReset = false) ∧
      (∀ c ∈ (start 0 0 0 false 0 7 [0x01, 0xF0]).prog, writesOutput (decode c.2) = false) ∧
      (7 : Nibble) ∈ (trace 1 { start 0 0 0 false 0 7 [0x01, 0xF0] with hostTurns := [[.setInput 3]] }).1 := by decide
theorem test_witness_CycleIsThePseudocodeOfTheSpec :
    (full 0xE5).length ≤ 16 ∧ (start 0 0 2 true 0 0 (full 0xE5)).prog = Memory.ofWords (full 0xE5) ∧
      ∃ t, cycle (start 0 0 2 true 0 0 (full 0xE5)) = .next t := ⟨by decide, by decide, _, rfl⟩
theorem test_witness_EveryStepKeepsTheInvariant :
    (start 15 0 0 false 0 0 [0x01]).inv ∧ ∃ t, step (start 15 0 0 false 0 0 [0x01]) = .next t := ⟨rfl, _, rfl⟩
theorem test_witness_RunNeverChangesProgramOrPolicy :
    ∃ t, Sys2Proof.core.run 2 { start 0 0 0 false 0 0 [0x01, 0xF0] with hostTurns := [[.setInput 3], [], [.reset]] } =
      .next t := ⟨_, rfl⟩
/-- P6 stays inside itself, and P3 does not. -/
theorem test_witness_ClosedProgramNeverFaults :
    (start 0 0 6 false 0 0 [0x75, 0x40, 0x0C, 0x1F, 0x9A, 0xBC, 0xF6]).prog.closed .fault = true ∧
      (start 0 0 6 false 0 0 [0x75, 0x40, 0x0C, 0x1F, 0x9A, 0xBC, 0xF6]).pc.toNat < 7 ∧
      (Memory.ofWords [0x37, 0x09, 0x10, 0x55]).closed .fault = false := by decide
theorem test_witness_FullProgramUnderAliasNeverFaults :
    ({ start 9 0 15 false 0 0 (full 0xC8) with undefPolicy := .aliasAddA } : State).inv ∧
      (start 9 0 15 false 0 0 (full 0xC8)).prog.size = 16 := ⟨rfl, by decide⟩
theorem test_witness_InputCannotReachAProgramThatNeverReadsIt :
    (∀ c ∈ ({ start 0 0 0 false 0 0 [0x51] with hostTurns := [[.setInput 1, .reset]] } : State).prog,
        readsInput (decode c.2) = false) ∧
      ({ start 0 0 0 false 0 0 [0x51] with hostTurns := [[.setInput 1, .reset]] } : State).sameButInput
        { start 0 0 0 false 9 0 [0x51] with hostTurns := [[.reset, .setInput 4, .setInput 2]] } :=
  ⟨by decide, rfl, rfl, rfl, rfl, rfl, rfl, rfl, rfl⟩

end Sys2Proof.Tests
end

/-! PROOFS. The load of a program and the reset state (00_scope.md R6; 70_reset_and_hazards.md R152, R153). -/

namespace Sys2Proof.Machine

theorem programWellFormed_iff (ws : List Byte) : programWellFormed ws = true ↔ ws.length ≤ 16 :=
  decide_eq_true_iff

/-- A program of at most sixteen words becomes the store, and the rest of the state is kept (R153). -/
theorem State.loadProgram_of_le (s : State) {ws : List Byte} (h : ws.length ≤ 16) :
    s.loadProgram ws = .next { s with prog := Memory.ofWords ws } :=
  if_pos ((programWellFormed_iff ws).2 h)

/-- A longer program is refused (decision D7 of the spec). -/
theorem State.loadProgram_of_gt (s : State) {ws : List Byte} (h : 16 < ws.length) :
    s.loadProgram ws = .refused (.programTooLong ws.length) :=
  if_neg fun hwf => absurd ((programWellFormed_iff ws).1 hwf) (by omega)

/-- Reset writes the six items of R10 and the load only the store, so their order does not matter (R152, R153). -/
theorem State.hostMove_reset_with_prog (s : State) (m : Memory) :
    ({ s with prog := m }).hostMove .reset = { s.hostMove .reset with prog := m } := rfl

/-- Settles O9: the load is one equation on each side of the bound, the store reads back its words, and the load commutes
with the reset. -/
theorem loadAndResetDoNotInteract : Obligations.LoadAndResetDoNotInteract := by
  intro s ws
  constructor
  case left =>
    intro hle
    refine ⟨{ s with prog := Memory.ofWords ws }, s.loadProgram_of_le hle, rfl, Memory.ofWords_read ws, ?_⟩
    rw [State.hostMove_reset_with_prog]
    exact (s.hostMove .reset).loadProgram_of_le hle
  case right => exact s.loadProgram_of_gt

/-- The store of the reset state is the load of the empty program (R152). -/
theorem State.reset_prog : State.reset.prog = Memory.ofWords [] := rfl

theorem State.reset_inv : State.reset.inv := by
  rw [State.inv, State.reset_prog]
  exact Memory.ofWords_isProgram ((programWellFormed_iff []).2 (Nat.zero_le 16))

/-- Settles O48: the empty program has the form of a program; the other fields are the reset state's own values. -/
theorem resetMeetsTheInvariant : Obligations.ResetMeetsTheInvariant :=
  ⟨State.reset_inv, State.reset_wf, Memory.ofWords_size [], rfl, rfl⟩

end Sys2Proof.Machine

/-! PROOFS. Execute said once: every instruction is one of four actions, each with the place it reads and the place it writes
(10_state.md R10 to R19; 40_cycle.md R73, R74). The claims about readers and writers are read off the action. -/

namespace Sys2Proof.Machine

/-- What an instruction does when it executes. -/
inductive Action where
  /-- The add of R90 and R91 to a register. -/
  | add (r : Reg) (k : Nibble)
  /-- A transfer (R104). -/
  | move (dst : Dest) (src : Source)
  /-- The jump of R111. -/
  | jnc (target : Nibble)
  /-- The jump of R110. -/
  | jmp (target : Nibble)

/-- The action of each instruction; the undefined patterns have that of AddA (R133). -/
def actionOf : Instr → Action
  | .addA k => .add .a k
  | .movAB _ => .move (.reg .b) (.reg .a)
  | .inA => .move (.reg .a) .portIn
  | .movA k => .move (.reg .a) (.imm k)
  | .movBA _ => .move (.reg .a) (.reg .b)
  | .addB k => .add .b k
  | .inB => .move (.reg .b) .portIn
  | .movB k => .move (.reg .b) (.imm k)
  | .undefined1000 k => .add .a k
  | .outB => .move .portOut (.reg .b)
  | .undefined1010 k => .add .a k
  | .outIm k => .move .portOut (.imm k)
  | .undefined1100 k => .add .a k
  | .undefined1101 k => .add .a k
  | .jnc target => .jnc target
  | .jmp target => .jmp target

/-- The state an action leads to. -/
def Action.run : Action → State → State
  | .add r k, s => addTo r k s
  | .move dst src, s => transfer dst src s
  | .jnc target, s => (s.setPc (if s.carry then s.pc else target)).clearCarry
  | .jmp target, s => (s.setPc target).clearCarry

/-- The place whose value an action copies or adds to. -/
def Action.source : Action → Option Source
  | .add r _ => some (.reg r)
  | .move _ src => some src
  | .jnc _ => none
  | .jmp _ => none

/-- The register or latch an action writes, besides the program counter and the carry. -/
def Action.dest : Action → Option Dest
  | .add r _ => some (.reg r)
  | .move dst _ => some dst
  | .jnc _ => none
  | .jmp _ => none

/-- The carry an action leaves (R16). -/
def Action.carryOut : Action → State → Bool
  | .add r k, s => carryOf (s.reg r) k
  | .move _ _, _ => false
  | .jnc _, _ => false
  | .jmp _, _ => false

/-! ## Execute is the action -/

theorem execJnc_eq (target : Nibble) (s : State) : execJnc target s = .next ((Action.jnc target).run s) := by
  cases h : s.carry <;> rw [execJnc, Action.run, h] <;> rfl

theorem actionOf_of_isUndefined {i : Instr} (h : i.isUndefined = true) : actionOf i = .add .a i.operand := by
  cases i with
  | undefined1000 | undefined1010 | undefined1100 | undefined1101 => rfl
  | _ => cases h

theorem exec_of_not_isUndefined {i : Instr} (h : i.isUndefined = false) (s : State) :
    exec i s = .next ((actionOf i).run s) := by
  cases i with
  | undefined1000 | undefined1010 | undefined1100 | undefined1101 => cases h
  | jnc target => exact execJnc_eq target s
  | _ => rfl

theorem wellFormed_iff (i : Instr) (p : UndefPolicy) :
    i.wellFormed p = true ↔ (i.isUndefined = true → p = .aliasAddA) := by
  cases p <;> simp [Instr.wellFormed]

/-- An instruction the policy admits completes with its action (R73). -/
theorem exec_of_wellFormed {i : Instr} {s : State} (h : i.wellFormed s.undefPolicy = true) :
    exec i s = .next ((actionOf i).run s) := by
  cases hu : i.isUndefined with
  | false => exact exec_of_not_isUndefined hu s
  | true =>
    have hp := (wellFormed_iff i _).1 h hu
    rw [exec_of_isUndefined hu, undefinedPattern_aliasAddA hp, actionOf_of_isUndefined hu, Action.run]

/-- Any other instruction raises UndefinedOpcode (R132). -/
theorem exec_of_not_wellFormed {i : Instr} {s : State} (h : i.wellFormed s.undefPolicy = false) :
    exec i s = .fault (.undefinedOpcode s.pc (encode i)) := by
  cases hp : s.undefPolicy with
  | aliasAddA => simp [Instr.wellFormed, hp] at h
  | fault =>
    have hu : i.isUndefined = true := by simpa [Instr.wellFormed, hp] using h
    rw [exec_of_isUndefined hu, undefinedPattern_fault hp, encode]

theorem exec_eq_next_iff {i : Instr} {s t : State} :
    exec i s = .next t ↔ i.wellFormed s.undefPolicy = true ∧ (actionOf i).run s = t := by
  cases h : i.wellFormed s.undefPolicy with
  | true => simp [exec_of_wellFormed h]
  | false => simp [exec_of_not_wellFormed h]

/-! ## What an action leaves unchanged, and what it does to the carry and the program counter -/

theorem Action.run_keeps (a : Action) (s : State) :
    (a.run s).prog = s.prog ∧ (a.run s).undefPolicy = s.undefPolicy ∧
      (a.run s).hostTurns = s.hostTurns ∧ (a.run s).portIn = s.portIn := by
  cases a with
  | add r k =>
    obtain ⟨hprog, hpolicy, hturns, hin, -⟩ := addTo_keeps r k s
    exact ⟨hprog, hpolicy, hturns, hin⟩
  | move dst src => exact transfer_keeps dst src s
  | jnc | jmp => exact ⟨rfl, rfl, rfl, rfl⟩

@[simp] theorem Action.run_prog (a : Action) (s : State) : (a.run s).prog = s.prog := (a.run_keeps s).1
@[simp] theorem Action.run_undefPolicy (a : Action) (s : State) : (a.run s).undefPolicy = s.undefPolicy :=
  (a.run_keeps s).2.1
@[simp] theorem Action.run_hostTurns (a : Action) (s : State) : (a.run s).hostTurns = s.hostTurns :=
  (a.run_keeps s).2.2.1
@[simp] theorem Action.run_portIn (a : Action) (s : State) : (a.run s).portIn = s.portIn := (a.run_keeps s).2.2.2

@[simp] theorem Action.run_carry (a : Action) (s : State) : (a.run s).carry = a.carryOut s := by
  cases a with
  | add | move | jnc | jmp => rfl

theorem run_pc_of_no_jump {i : Instr} (h : jumpTarget i = none) (s : State) :
    ((actionOf i).run s).pc = s.pc + 1 := by
  cases i with
  | jnc | jmp => cases h
  | _ => rfl

/-- After a jump the program counter is on the target, or still on a Jnc not taken (R110, R111). -/
theorem run_pc_of_jump {i : Instr} {k : Nibble} (h : jumpTarget i = some k) (s : State) :
    ((actionOf i).run s).pc = k ∨ ((actionOf i).run s).pc = s.pc := by
  cases i with
  | jmp => cases h; exact .inl rfl
  | jnc =>
    cases h
    cases hc : s.carry
    · exact .inl (by simp [actionOf, Action.run, State.clearCarry, hc])
    · exact .inr (by simp [actionOf, Action.run, State.clearCarry, hc])
  | _ => cases h

/-! ## Writers: a register or latch that is not the action's destination is kept -/

theorem Action.run_regA_of_dest_ne {a : Action} (h : a.dest ≠ some (.reg .a)) (s : State) :
    (a.run s).regA = s.regA := by
  cases a with
  | add r k => cases r with
    | a => exact absurd rfl h
    | b => rfl
  | move dst src =>
    match dst with
    | .reg .a => exact absurd rfl h
    | .reg .b => rfl
    | .portOut => rfl
  | jnc | jmp => rfl

theorem Action.run_regB_of_dest_ne {a : Action} (h : a.dest ≠ some (.reg .b)) (s : State) :
    (a.run s).regB = s.regB := by
  cases a with
  | add r k => cases r with
    | a => rfl
    | b => exact absurd rfl h
  | move dst src =>
    match dst with
    | .reg .a => rfl
    | .reg .b => exact absurd rfl h
    | .portOut => rfl
  | jnc | jmp => rfl

theorem Action.run_portOut_of_dest_ne {a : Action} (h : a.dest ≠ some .portOut) (s : State) :
    (a.run s).portOut = s.portOut := by
  cases a with
  | add r k => cases r <;> rfl
  | move dst src =>
    match dst with
    | .reg .a => rfl
    | .reg .b => rfl
    | .portOut => exact absurd rfl h
  | jnc | jmp => rfl

theorem writer_of_regA {i : Instr} (h : (actionOf i).dest = some (.reg .a)) :
    i.isUndefined = true ∨ i = .inA ∨ ∃ k, i = .addA k ∨ i = .movA k ∨ i = .movBA k := by
  cases i with
  | undefined1000 | undefined1010 | undefined1100 | undefined1101 => exact .inl rfl
  | inA => exact .inr (.inl rfl)
  | addA k => exact .inr (.inr ⟨k, .inl rfl⟩)
  | movA k => exact .inr (.inr ⟨k, .inr (.inl rfl)⟩)
  | movBA x => exact .inr (.inr ⟨x, .inr (.inr rfl)⟩)
  | _ => cases h

theorem writer_of_regB {i : Instr} (h : (actionOf i).dest = some (.reg .b)) :
    i = .inB ∨ ∃ k, i = .addB k ∨ i = .movB k ∨ i = .movAB k := by
  cases i with
  | inB => exact .inl rfl
  | addB k => exact .inr ⟨k, .inl rfl⟩
  | movB k => exact .inr ⟨k, .inr (.inl rfl)⟩
  | movAB x => exact .inr ⟨x, .inr (.inr rfl)⟩
  | _ => cases h

theorem writer_of_portOut {i : Instr} (h : (actionOf i).dest = some .portOut) : i = .outB ∨ ∃ k, i = .outIm k := by
  cases i with
  | outB => exact .inl rfl
  | outIm k => exact .inr ⟨k, rfl⟩
  | _ => cases h

theorem writesOutput_iff_dest (i : Instr) : writesOutput i = true ↔ (actionOf i).dest = some .portOut := by
  cases i <;> simp [writesOutput, actionOf, Action.dest]

theorem run_portOut_of_not_writesOutput {i : Instr} (h : writesOutput i = false) (s : State) :
    ((actionOf i).run s).portOut = s.portOut :=
  Action.run_portOut_of_dest_ne (fun hd => by simp [(writesOutput_iff_dest i).2 hd] at h) s

/-- Settles O22: a changed item is the destination of the action, and the table of the actions names the instructions. -/
theorem writersOfEachItem : Obligations.WritersOfEachItem := by
  intro i s t h
  obtain ⟨-, rfl⟩ := exec_eq_next_iff.1 h
  refine ⟨fun hne => writer_of_regA ?_, fun hne => writer_of_regB ?_, fun hne => writer_of_portOut ?_⟩
  · exact not_imp_comm.1 (fun hd => Action.run_regA_of_dest_ne hd s) hne
  · exact not_imp_comm.1 (fun hd => Action.run_regB_of_dest_ne hd s) hne
  · exact not_imp_comm.1 (fun hd => Action.run_portOut_of_dest_ne hd s) hne

/-! ## Readers: a register or latch that is not the action's source does not reach the rest of the state -/

theorem Action.run_setReg_a {a : Action} (h : a.source ≠ some (.reg .a)) (s : State) (v : Nibble) :
    { a.run (s.setReg .a v) with regA := (a.run s).regA } = a.run s := by
  cases a with
  | add r k => cases r with
    | a => exact absurd rfl h
    | b => rfl
  | move dst src =>
    match src, dst with
    | .reg .a, _ => exact absurd rfl h
    | .reg .b, .reg .a | .reg .b, .reg .b | .reg .b, .portOut => rfl
    | .imm _, .reg .a | .imm _, .reg .b | .imm _, .portOut => rfl
    | .portIn, .reg .a | .portIn, .reg .b | .portIn, .portOut => rfl
  | jnc | jmp => rfl

theorem Action.run_setReg_b {a : Action} (h : a.source ≠ some (.reg .b)) (s : State) (v : Nibble) :
    { a.run (s.setReg .b v) with regB := (a.run s).regB } = a.run s := by
  cases a with
  | add r k => cases r with
    | a => rfl
    | b => exact absurd rfl h
  | move dst src =>
    match src, dst with
    | .reg .b, _ => exact absurd rfl h
    | .reg .a, .reg .a | .reg .a, .reg .b | .reg .a, .portOut => rfl
    | .imm _, .reg .a | .imm _, .reg .b | .imm _, .portOut => rfl
    | .portIn, .reg .a | .portIn, .reg .b | .portIn, .portOut => rfl
  | jnc | jmp => rfl

/-- An action that does not read the input latch does the same whatever the latch and the host's schedule hold. -/
theorem Action.run_with_input {a : Action} (h : a.source ≠ some .portIn) (s : State) (v : Nibble)
    (turns : List (List HostMove)) :
    a.run { s with portIn := v, hostTurns := turns } = { a.run s with portIn := v, hostTurns := turns } := by
  cases a with
  | add r k => cases r <;> rfl
  | move dst src =>
    match src, dst with
    | .portIn, _ => exact absurd rfl h
    | .reg _, .reg .a | .reg _, .reg .b | .reg _, .portOut => rfl
    | .imm _, .reg .a | .imm _, .reg .b | .imm _, .portOut => rfl
  | jnc | jmp => rfl

theorem Action.run_setInput {a : Action} (h : a.source ≠ some .portIn) (s : State) (v : Nat) :
    a.run (s.setInput v) = (a.run s).setInput v := by
  calc a.run (s.setInput v) = { a.run s with portIn := BitVec.ofNat 4 v, hostTurns := s.hostTurns } :=
        Action.run_with_input h s _ s.hostTurns
    _ = (a.run s).setInput v := by rw [State.setInput, Action.run_hostTurns]

/-- No action reads the output latch. -/
theorem Action.run_writePort (a : Action) (s : State) (v : Nibble) :
    a.run (s.writePort v) = if a.dest = some .portOut then a.run s else (a.run s).writePort v := by
  cases a with
  | add r k => cases r <;> rfl
  | move dst src =>
    match dst with
    | .reg .a | .reg .b | .portOut => rfl
  | jnc | jmp => rfl

/-- No action but a Jnc reads the carry (R16, R93). -/
theorem Action.run_setCarry {a : Action} (h : ∀ k, a ≠ .jnc k) (s : State) (b : Bool) :
    a.run (s.setCarry b) = a.run s := by
  cases a with
  | add r k => cases r <;> rfl
  | move dst src =>
    match dst with
    | .reg .a | .reg .b | .portOut => rfl
  | jnc k => exact absurd rfl (h k)
  | jmp => rfl

theorem reader_of_regA {i : Instr} (h : (actionOf i).source = some (.reg .a)) :
    i.isUndefined = true ∨ ∃ k, i = .addA k ∨ i = .movAB k := by
  cases i with
  | undefined1000 | undefined1010 | undefined1100 | undefined1101 => exact .inl rfl
  | addA k => exact .inr ⟨k, .inl rfl⟩
  | movAB x => exact .inr ⟨x, .inr rfl⟩
  | _ => cases h

theorem reader_of_regB {i : Instr} (h : (actionOf i).source = some (.reg .b)) :
    i = .outB ∨ ∃ k, i = .addB k ∨ i = .movBA k := by
  cases i with
  | outB => exact .inl rfl
  | addB k => exact .inr ⟨k, .inl rfl⟩
  | movBA x => exact .inr ⟨x, .inr rfl⟩
  | _ => cases h

theorem source_ne_portIn_of_not_readsInput {i : Instr} (h : readsInput i = false) :
    (actionOf i).source ≠ some .portIn := by
  cases i with
  | inA | inB => cases h
  | _ => nofun

theorem eq_jnc_of_actionOf {i : Instr} {k : Nibble} (h : actionOf i = .jnc k) : i = .jnc k := by
  cases i with
  | jnc => cases h; rfl
  | _ => cases h

/-- Settles O23: an instruction outside the list has a source other than the register. -/
theorem readersOfTheGeneralRegisters : Obligations.ReadersOfTheGeneralRegisters := by
  intro i s t v h
  obtain ⟨hwf, rfl⟩ := exec_eq_next_iff.1 h
  constructor
  case left =>
    intro hundef hadd hmov
    refine ⟨_, exec_of_wellFormed hwf, Action.run_setReg_a (fun hsrc => ?_) s v⟩
    rcases reader_of_regA hsrc with hu | ⟨k, rfl | rfl⟩
    · simp [hu] at hundef
    · exact hadd k rfl
    · exact hmov k rfl
  case right =>
    intro hout hadd hmov
    refine ⟨_, exec_of_wellFormed hwf, Action.run_setReg_b (fun hsrc => ?_) s v⟩
    rcases reader_of_regB hsrc with rfl | ⟨k, rfl | rfl⟩
    · exact hout rfl
    · exact hadd k rfl
    · exact hmov k rfl

/-- Settles O24: the input latch is the source of InA and InB only, and the output latch of no action. -/
theorem readersOfThePortLatches : Obligations.ReadersOfThePortLatches := by
  intro i s t h
  obtain ⟨hwf, rfl⟩ := exec_eq_next_iff.1 h
  constructor
  case left =>
    intro v hreads
    exact exec_eq_next_iff.2 ⟨hwf, Action.run_setInput (source_ne_portIn_of_not_readsInput hreads) s v⟩
  case right =>
    intro v
    refine exec_eq_next_iff.2 ⟨hwf, ?_⟩
    simp only [Action.run_writePort, writesOutput_iff_dest]

/-- Settles O21: both values of the carry give the same next state, or the same fault, which does not record the carry. -/
theorem onlyJncReadsTheCarry : Obligations.OnlyJncReadsTheCarry := by
  intro i s b hjnc
  cases hwf : i.wellFormed s.undefPolicy with
  | true =>
    have hact : ∀ k, actionOf i ≠ .jnc k := fun k hk => hjnc k (eq_jnc_of_actionOf hk)
    rw [exec_of_wellFormed hwf, exec_of_wellFormed (s := s.setCarry b) hwf, Action.run_setCarry hact]
  | false => rw [exec_of_not_wellFormed hwf, exec_of_not_wellFormed (s := s.setCarry b) hwf]; rfl

/-! ## The carry -/

/-- An instruction that leaves the carry set is an add that overflowed (R16). -/
theorem overflow_of_carryOut {i : Instr} {s : State} (h : (actionOf i).carryOut s = true) :
    (∃ k, i = .addA k ∧ 15 < s.regA.toNat + k.toNat) ∨ (∃ k, i = .addB k ∧ 15 < s.regB.toNat + k.toNat) ∨
      (i.isUndefined = true ∧ 15 < s.regA.toNat + i.operand.toNat) := by
  cases i with
  | addA k => exact .inl ⟨k, rfl, of_decide_eq_true ((carryOf_eq _ _).symm.trans h)⟩
  | addB k => exact .inr (.inl ⟨k, rfl, of_decide_eq_true ((carryOf_eq _ _).symm.trans h)⟩)
  | undefined1000 | undefined1010 | undefined1100 | undefined1101 =>
    exact .inr (.inr ⟨rfl, of_decide_eq_true ((carryOf_eq _ _).symm.trans h)⟩)
  | _ => cases h

theorem Action.carryOut_add_iff (r : Reg) (k : Nibble) (s : State) :
    (Action.add r k).carryOut s = true ↔ 15 < (s.reg r).toNat + k.toNat := by
  simp [Action.carryOut, carryOf_eq]

/-- Settles O20: the carry out of the adder for the adds, and no carry out of any other action. -/
theorem carryLaw : Obligations.CarryLaw := by
  intro i s t h
  obtain ⟨-, rfl⟩ := exec_eq_next_iff.1 h
  rw [Action.run_carry]
  refine ⟨fun k hk => ?addsToA, fun k hk => ?addsToB, fun hA hB hundef => ?others⟩
  case addsToA =>
    have hact : actionOf i = .add .a k := by
      rcases hk with rfl | ⟨hu, rfl⟩
      · rfl
      · exact actionOf_of_isUndefined hu
    rw [hact, Action.carryOut_add_iff, State.reg_a]
  case addsToB =>
    subst hk
    exact Action.carryOut_add_iff .b k s
  case others =>
    refine Bool.eq_false_iff.2 fun hc => ?_
    rcases overflow_of_carryOut hc with ⟨k, rfl, -⟩ | ⟨k, rfl, -⟩ | ⟨hu, -⟩
    · exact hA k rfl
    · exact hB k rfl
    · simp [hu] at hundef

end Sys2Proof.Machine

/-! PROOFS. The cycle and the step said once: the outcome is decided by the fetch and by whether the policy admits the word. Then
the claims about one cycle or step (R16, R18, R22, R44, R159). -/

namespace Sys2Proof.Machine

/-! ## The outcomes of a cycle and of a step -/

theorem cycle_of_wellFormed {s : State} {w : Byte} (hf : fetch s = some w)
    (hwf : (decode w).wellFormed s.undefPolicy = true) : cycle s = .next ((actionOf (decode w)).run s) := by
  rw [cycle_of_fetch_some hf, exec_of_wellFormed hwf]

theorem cycle_of_not_wellFormed {s : State} {w : Byte} (hf : fetch s = some w)
    (hwf : (decode w).wellFormed s.undefPolicy = false) :
    cycle s = .fault (.undefinedOpcode s.pc (encode (decode w))) := by
  rw [cycle_of_fetch_some hf, exec_of_not_wellFormed hwf]

/-- A cycle that answers a next state fetched a word the policy admits and ran its action. -/
theorem cycle_eq_next_iff {s t : State} :
    cycle s = .next t ↔ ∃ w, fetch s = some w ∧ (decode w).wellFormed s.undefPolicy = true ∧
      (actionOf (decode w)).run s = t := by
  cases hf : fetch s with
  | none => simp [cycle_of_fetch_none hf]
  | some w => simp [cycle_of_fetch_some hf, exec_eq_next_iff]

theorem step_eq_next_iff {s t : State} :
    step s = .next t ↔ ∃ w, fetch s.hostTurn = some w ∧ (decode w).wellFormed s.undefPolicy = true ∧
      (actionOf (decode w)).run s.hostTurn = t := by
  rw [step, cycle_eq_next_iff, s.hostTurn_keeps.2.1]

/-- What every step leaves: the program, the policy, and the schedule without its first turn. -/
theorem step_keeps {s t : State} (h : step s = .next t) :
    t.prog = s.prog ∧ t.undefPolicy = s.undefPolicy ∧ t.hostTurns = s.hostTurns.drop 1 := by
  obtain ⟨w, -, -, rfl⟩ := step_eq_next_iff.1 h
  simpa using s.hostTurn_keeps

/-! ## The reset state and the host's turn -/

/-- Settles O7: R25's values are those of the reset state. -/
theorem resetLeavesEveryItemZero : Obligations.ResetLeavesEveryItemZero := ⟨rfl, rfl, rfl, rfl, rfl, rfl⟩

theorem State.hostTurn_cons {s : State} {ms : List HostMove} {rest : List (List HostMove)}
    (h : s.hostTurns = ms :: rest) : s.hostTurn = { s with hostTurns := rest }.hostMoves ms := by
  simp [State.hostTurn, h]

theorem State.hostMoves_setInput_last (s : State) (ms : List HostMove) (v : Nat) :
    (s.hostMoves (ms ++ [.setInput v])).portIn = BitVec.ofNat 4 v := by
  rw [State.hostMoves_append]
  rfl

/-- An idle or absent turn leaves the input latch. -/
theorem State.hostTurn_portIn_of_idle {s : State} (h : ∀ ms ∈ s.hostTurns.head?, ms = []) :
    s.hostTurn.portIn = s.portIn := by
  cases hs : s.hostTurns with
  | nil => rw [State.hostTurn_nil hs]
  | cons ms rest =>
    have hms : ms = [] := h ms (by simp [hs])
    rw [State.hostTurn_cons hs, hms]
    rfl

/-- Without a reset the host's turn leaves the output latch. -/
theorem State.hostTurn_portOut_of_noReset {s : State} (h : ∀ ms ∈ s.hostTurns, ∀ m ∈ ms, m.isReset = false) :
    s.hostTurn.portOut = s.portOut := by
  cases hs : s.hostTurns with
  | nil => rw [State.hostTurn_nil hs]
  | cons ms rest =>
    rw [State.hostTurn_cons hs, State.hostMoves_of_noReset _ ms (h ms (by simp [hs]))]

/-- The host leaves the program counter, or resets it. -/
theorem State.hostMoves_pc (s : State) (ms : List HostMove) : (s.hostMoves ms).pc = s.pc ∨ (s.hostMoves ms).pc = 0 := by
  induction ms generalizing s with
  | nil => exact .inl rfl
  | cons m ms ih =>
    cases m with
    | setInput v => exact ih (s.setInput v)
    | reset => exact .inr ((ih s.resetCore).elim id id)

theorem State.hostTurn_pc (s : State) : s.hostTurn.pc = s.pc ∨ s.hostTurn.pc = 0 := by
  cases hs : s.hostTurns with
  | nil => exact .inl (by rw [State.hostTurn_nil hs])
  | cons ms rest =>
    rw [State.hostTurn_cons hs]
    exact State.hostMoves_pc { s with hostTurns := rest } ms

/-! ## Claims about one step -/

/-- Settles O49: no step writes the program or the policy, and the form of a program is canonical. -/
theorem everyStepKeepsTheInvariant : Obligations.EveryStepKeepsTheInvariant := by
  intro s t hinv h
  obtain ⟨hprog, hpolicy, -⟩ := step_keeps h
  have hinv' : t.inv := by rwa [State.inv, hprog]
  exact ⟨hinv', Memory.isProgram_wf hinv', fun a => by rw [hprog], hpolicy⟩

/-- Settles O11: no action writes the input latch, and an idle turn does not either. -/
theorem onlyTheHostWritesTheInputLatch : Obligations.OnlyTheHostWritesTheInputLatch := by
  intro s t h
  obtain ⟨w, -, -, rfl⟩ := step_eq_next_iff.1 h
  rw [Action.run_portIn]
  exact ⟨rfl, State.hostTurn_portIn_of_idle⟩

/-- Settles O10: the last move of the turn is in the latch when the transfer reads it, and the output latch holds what the
transfer wrote. -/
theorem portValuesPassBetweenHostAndCycle : Obligations.PortValuesPassBetweenHostAndCycle := by
  intro s ms v rest w hturns hf
  have hin : s.hostTurn.portIn.toNat = v % 16 := by
    rw [State.hostTurn_cons hturns, State.hostMoves_setInput_last, BitVec.toNat_ofNat]
  have hstep (i : Instr) (hi : decode w = i) (hu : i.isUndefined = false) :
      step s = .next ((actionOf i).run s.hostTurn) := by
    rw [step, cycle_of_fetch_some hf, hi, exec_of_not_isUndefined hu]
  exact ⟨fun h => ⟨_, hstep .inA h rfl, hin, hin⟩, fun h => ⟨_, hstep .inB h rfl, hin, hin⟩,
    fun h => ⟨_, hstep .outB h rfl, rfl⟩, fun k h => ⟨_, hstep (.outIm k) h rfl, rfl⟩⟩

theorem operand_decode_of_isUndefined :
    ∀ w : Byte, (decode w).isUndefined = true → (decode w).operand = immField w := by decide

/-- Settles O43: the carry after the step is the carry out of its action. -/
theorem carryLivesForOneInstruction : Obligations.CarryLivesForOneInstruction := by
  intro s t h hcarry
  obtain ⟨w, hf, hwf, rfl⟩ := step_eq_next_iff.1 h
  rw [Action.run_carry] at hcarry
  refine ⟨w, hf, (overflow_of_carryOut hcarry).imp_right (Or.imp_right ?_)⟩
  rintro ⟨hu, hsum⟩
  exact ⟨hu, (wellFormed_iff _ _).1 hwf hu, operand_decode_of_isUndefined w hu ▸ hsum⟩

/-- Settles O42: the program counter after the last word is `L mod 16`, where the store holds nothing if `L < 16`. -/
theorem runningOffTheEnd : Obligations.RunningOffTheEnd := by
  intro ws s w hle hprog hpc hf hjump hwf
  have hfetch (t : State) (ht : t.prog = s.prog) : fetch t = ws[t.pc.toNat]? := by
    rw [fetch, ht, hprog, Memory.ofWords_read]
  refine ⟨_, cycle_of_wellFormed hf hwf, ?_⟩
  set t := (actionOf (decode w)).run s with ht
  have htprog : t.prog = s.prog := Action.run_prog _ s
  have htpc : t.pc.toNat = ws.length % 16 := by
    rw [ht, run_pc_of_no_jump hjump, BitVec.toNat_add, ← hpc]
    rfl
  constructor
  case left =>
    intro hlt
    have hL : t.pc.toNat = ws.length := htpc.trans (Nat.mod_eq_of_lt hlt)
    refine ⟨hL, cycle_of_fetch_none ?_⟩
    rw [hfetch t htprog, List.getElem?_eq_none_iff, hL]
  case right =>
    intro hfull
    have h0 : t.pc = 0 := BitVec.eq_of_toNat_eq (by rw [htpc, hfull]; rfl)
    refine ⟨h0, ?_⟩
    rw [hfetch t htprog, h0]
    rfl

end Sys2Proof.Machine

/-! PROOFS. Claims about runs of any length (R22, R27, R31, R113, R159), each from a fact about one step. -/

namespace Sys2Proof.Machine

/-- R79: no step answers a refusal. -/
theorem step_ne_refused (s : State) (r : Refusal) : step s ≠ .refused r := by
  rw [step]
  cases hf : fetch s.hostTurn with
  | none => simp [cycle_of_fetch_none hf]
  | some w =>
    cases hwf : (decode w).wellFormed s.hostTurn.undefPolicy with
    | true => simp [cycle_of_wellFormed hf hwf]
    | false => simp [cycle_of_not_wellFormed hf hwf]

theorem step_next_of_run_succ {n : Nat} {s t : State} (h : Sys2Proof.core.run (n + 1) s = .next t) :
    ∃ u, step s = .next u ∧ Sys2Proof.core.run n u = .next t := by
  cases hs : step s with
  | next u => exact ⟨u, rfl, run_succ_of_next n hs ▸ h⟩
  | fault f => cases (run_succ_of_fault n hs).symm.trans h
  | refused r => exact absurd hs (step_ne_refused s r)

/-- What holds at the start, lets each step answer a next state and holds there again, holds after every run. -/
theorem run_of_progress {P : State → Prop} (hstep : ∀ s, P s → ∃ t, step s = .next t ∧ P t) (n : Nat) {s : State}
    (hs : P s) : ∃ t, Sys2Proof.core.run n s = .next t ∧ P t := by
  induction n generalizing s with
  | zero => exact ⟨s, rfl, hs⟩
  | succ n ih =>
    obtain ⟨u, hu, hPu⟩ := hstep s hs
    rw [run_succ_of_next n hu]
    exact ih hPu

/-- Settles O50, by induction on the number of steps. -/
theorem runNeverChangesProgramOrPolicy : Obligations.RunNeverChangesProgramOrPolicy := by
  intro n
  induction n with
  | zero =>
    intro s t h
    cases h
    exact ⟨rfl, rfl, rfl⟩
  | succ n ih =>
    intro s t h
    obtain ⟨u, hu, hrun⟩ := step_next_of_run_succ h
    obtain ⟨hprog, hpolicy, hturns⟩ := step_keeps hu
    obtain ⟨hprog', hpolicy', hturns'⟩ := ih u t hrun
    refine ⟨hprog'.trans hprog, hpolicy'.trans hpolicy, ?_⟩
    rw [hturns', hturns, List.drop_drop, Nat.add_comm]

/-! ## Programs that cannot fault -/

theorem exists_fetch_of_lt {s : State} (h : s.prog.isProgram = true) (hpc : s.pc.toNat < s.prog.size) :
    ∃ w, fetch s = some w := by
  refine Option.ne_none_iff_exists'.1 fun hnone => ?_
  exact absurd ((fetch_eq_none_iff h).1 hnone) hpc.not_ge

/-- The program has sixteen words and the policy admits every word. -/
def State.fullUnderAlias (s : State) : Prop := s.inv ∧ s.prog.size = 16 ∧ s.undefPolicy = .aliasAddA

theorem step_of_fullUnderAlias {s : State} (h : s.fullUnderAlias) : ∃ t, step s = .next t ∧ t.fullUnderAlias := by
  obtain ⟨hinv, hsize, halias⟩ := h
  obtain ⟨hprog, hpolicy, -⟩ := s.hostTurn_keeps
  obtain ⟨w, hw⟩ : ∃ w, fetch s.hostTurn = some w := by
    refine exists_fetch_of_lt (hprog ▸ hinv) ?_
    rw [hprog, hsize]
    exact s.hostTurn.pc.isLt
  have hnext := step_eq_next_iff.2 ⟨w, hw, (wellFormed_iff _ _).2 fun _ => halias, rfl⟩
  refine ⟨_, hnext, ?_⟩
  obtain ⟨hprog', hpolicy', -⟩ := step_keeps hnext
  rw [State.fullUnderAlias, State.inv, hprog', hpolicy']
  exact ⟨hinv, hsize, halias⟩

/-- Settles O52: every one of the sixteen addresses holds a word, and `alias_adda` admits it. -/
theorem fullProgramUnderAliasNeverFaults : Obligations.FullProgramUnderAliasNeverFaults := by
  intro n s hinv hsize halias
  obtain ⟨t, ht, -⟩ := run_of_progress (fun _ => step_of_fullUnderAlias) n ⟨hinv, hsize, halias⟩
  exact ⟨t, ht⟩

theorem Memory.closed_iff (p : UndefPolicy) (m : Memory) :
    m.closed p = true ↔ m.isProgram = true ∧ 0 < m.size ∧ ∀ c ∈ m, staysInside p m.size c.1 c.2 = true := by
  simp [Memory.closed, and_assoc]

/-- A program that stays inside itself, with the program counter inside it. -/
def State.insideClosed (s : State) : Prop := s.prog.closed s.undefPolicy = true ∧ s.pc.toNat < s.prog.size

/-- The host's turn keeps it: a reset sets the program counter to 0, which is inside a program that is not empty. -/
theorem hostTurn_insideClosed {s : State} (h : s.insideClosed) : s.hostTurn.insideClosed := by
  obtain ⟨hclosed, hpc⟩ := h
  obtain ⟨hprog, hpolicy, -⟩ := s.hostTurn_keeps
  rw [State.insideClosed, hprog, hpolicy]
  refine ⟨hclosed, ?_⟩
  rcases s.hostTurn_pc with h | h
  · rwa [h]
  · rw [h]
    exact ((Memory.closed_iff _ _).1 hclosed).2.1

/-- The word at the program counter passed the check. -/
theorem fetch_of_insideClosed {s : State} (h : s.insideClosed) :
    ∃ w, fetch s = some w ∧ staysInside s.undefPolicy s.prog.size s.pc.toNat w = true := by
  obtain ⟨hclosed, hpc⟩ := h
  obtain ⟨hform, -, hall⟩ := (Memory.closed_iff _ _).1 hclosed
  obtain ⟨w, hw⟩ := exists_fetch_of_lt hform hpc
  exact ⟨w, hw, hall (s.pc.toNat, w) (Memory.mem_of_read hw)⟩

/-- A word that passed the check is an instruction and leads to an address inside the program (R15, R113, R159). -/
theorem staysInside_run {s : State} {w : Byte} (hpc : s.pc.toNat < s.prog.size)
    (h : staysInside s.undefPolicy s.prog.size s.pc.toNat w = true) :
    (decode w).wellFormed s.undefPolicy = true ∧ ((actionOf (decode w)).run s).pc.toNat < s.prog.size := by
  rw [staysInside, Bool.and_eq_true] at h
  refine ⟨h.1, ?_⟩
  cases hj : jumpTarget (decode w) with
  | none =>
    rw [run_pc_of_no_jump hj, BitVec.toNat_add]
    simpa [hj] using h.2
  | some k =>
    rcases run_pc_of_jump hj s with hk | hk
    · rw [hk]
      simpa [hj] using h.2
    · rwa [hk]

theorem step_of_insideClosed {s : State} (h : s.insideClosed) : ∃ t, step s = .next t ∧ t.insideClosed := by
  have hturn := hostTurn_insideClosed h
  obtain ⟨w, hw, hstays⟩ := fetch_of_insideClosed hturn
  obtain ⟨hwf, hpc⟩ := staysInside_run hturn.2 hstays
  refine ⟨_, cycle_of_wellFormed hw hwf, ?_⟩
  rw [State.insideClosed, Action.run_prog, Action.run_undefPolicy]
  exact ⟨hturn.1, hpc⟩

/-- Settles O51: being inside a closed program is kept by the host's turn and by the cycle, which always completes. -/
theorem closedProgramNeverFaults : Obligations.ClosedProgramNeverFaults := by
  intro n s hclosed hpc
  obtain ⟨t, ht, -, htpc⟩ := run_of_progress (fun _ => step_of_insideClosed) n (s := s) ⟨hclosed, hpc⟩
  exact ⟨t, ht, htpc⟩

end Sys2Proof.Machine

/-! PROOFS. What a run shows the host (40_cycle.md R77): the output latch without output instructions (R158), and programs that do
not read the input (R157). -/

namespace Sys2Proof.Machine

theorem trace_succ_of_next {s t : State} (n : Nat) (h : step s = .next t) :
    trace (n + 1) s = (t.portOut :: (trace n t).1, (trace n t).2) := by
  simp [trace, h]

theorem trace_succ_of_fault {s : State} {f : Fault} (n : Nat) (h : step s = .fault f) :
    trace (n + 1) s = ([], some f) := by
  simp [trace, h]

/-- A word fetched is a word of the program. -/
theorem mem_prog_of_fetch {s : State} {w : Byte} (h : fetch s.hostTurn = some w) : ∃ a, (a, w) ∈ s.prog :=
  ⟨_, s.hostTurn_keeps.1 ▸ Memory.mem_of_read h⟩

/-! ## The output latch -/

theorem step_portOut_of_no_output {s t : State} (hturns : ∀ ms ∈ s.hostTurns, ∀ m ∈ ms, m.isReset = false)
    (hprog : ∀ c ∈ s.prog, writesOutput (decode c.2) = false) (h : step s = .next t) : t.portOut = s.portOut := by
  obtain ⟨w, hf, -, rfl⟩ := step_eq_next_iff.1 h
  obtain ⟨a, hmem⟩ := mem_prog_of_fetch hf
  rw [run_portOut_of_not_writesOutput (hprog _ hmem), State.hostTurn_portOut_of_noReset hturns]

/-- Settles O46, by induction on the number of steps. -/
theorem outputHoldsWithoutOutputInstructions : Obligations.OutputHoldsWithoutOutputInstructions := by
  intro n
  induction n with
  | zero => exact fun s _ _ v hv => nomatch hv
  | succ n ih =>
    intro s hturns hprog v hv
    cases hs : step s with
    | next t =>
      have hout := step_portOut_of_no_output hturns hprog hs
      obtain ⟨htprog, -, htturns⟩ := step_keeps hs
      rw [trace_succ_of_next n hs] at hv
      rcases List.mem_cons.1 hv with rfl | hv
      · exact hout
      · rw [← hout]
        refine ih t (fun ms hms => hturns ms ?_) (htprog ▸ hprog) v hv
        exact List.mem_of_mem_drop (htturns ▸ hms)
    | fault f => rw [trace_succ_of_fault n hs] at hv; cases hv
    | refused r => exact absurd hs (step_ne_refused s r)

/-! ## The input latch: a run of a program that does not read it is the run with the input hidden -/

/-- The state with the input latch and the host's writes to it taken out. -/
def State.hideInput (s : State) : State := { s with portIn := 0, hostTurns := resetsOf s.hostTurns }

theorem State.hideInput_eq_of_sameButInput {s t : State} (h : s.sameButInput t) : t.hideInput = s.hideInput := by
  obtain ⟨ha, hb, hpc, hc, hout, hprog, hpolicy, hturns⟩ := h
  simp only [hideInput, ha, hb, hpc, hc, hout, hprog, hpolicy, hturns]

/-- Taking the writes of the input latch out of the host's moves does not change what they do to the rest. -/
theorem State.hideInput_hostMoves (s : State) (ms : List HostMove) :
    s.hideInput.hostMoves (ms.filter HostMove.isReset) = (s.hostMoves ms).hideInput := by
  induction ms generalizing s with
  | nil => rfl
  | cons m ms ih =>
    cases m with
    | setInput v => exact ih (s.setInput v)
    | reset => exact ih s.resetCore

theorem State.hideInput_hostTurn (s : State) : s.hideInput.hostTurn = s.hostTurn.hideInput := by
  cases hs : s.hostTurns with
  | nil => rw [State.hostTurn_nil hs, State.hostTurn_nil (by rw [hideInput, hs]; rfl)]
  | cons ms rest =>
    have hcons : s.hideInput.hostTurns = ms.filter HostMove.isReset :: resetsOf rest := by
      simp [hideInput, resetsOf, hs]
    rw [State.hostTurn_cons hs, State.hostTurn_cons hcons, ← State.hideInput_hostMoves]
    rfl

theorem Action.run_hideInput {a : Action} (h : a.source ≠ some .portIn) (s : State) :
    a.run s.hideInput = (a.run s).hideInput := by
  rw [State.hideInput, State.hideInput, Action.run_hostTurns, Action.run_with_input h]

/-- Hiding the input commutes with a step of a program that does not read it: the same fault, or next states that agree. -/
theorem step_hideInput {s : State} (hprog : ∀ c ∈ s.prog, readsInput (decode c.2) = false) :
    (∃ f, step s = .fault f ∧ step s.hideInput = .fault f) ∨
      ∃ t, step s = .next t ∧ step s.hideInput = .next t.hideInput := by
  rw [step, step, State.hideInput_hostTurn]
  have hsame : fetch s.hostTurn.hideInput = fetch s.hostTurn := rfl
  cases hf : fetch s.hostTurn with
  | none => exact .inl ⟨_, cycle_of_fetch_none hf, cycle_of_fetch_none (hsame.trans hf)⟩
  | some w =>
    cases hwf : (decode w).wellFormed s.hostTurn.undefPolicy with
    | false => exact .inl ⟨_, cycle_of_not_wellFormed hf hwf, cycle_of_not_wellFormed (hsame.trans hf) hwf⟩
    | true =>
      obtain ⟨a, hmem⟩ := mem_prog_of_fetch hf
      have hsource := source_ne_portIn_of_not_readsInput (hprog _ hmem)
      refine .inr ⟨_, cycle_of_wellFormed hf hwf, ?_⟩
      rw [← Action.run_hideInput hsource]
      exact cycle_of_wellFormed (hsame.trans hf) hwf

theorem trace_hideInput (n : Nat) {s : State} (hprog : ∀ c ∈ s.prog, readsInput (decode c.2) = false) :
    trace n s.hideInput = trace n s := by
  induction n generalizing s with
  | zero => rfl
  | succ n ih =>
    rcases step_hideInput hprog with ⟨f, hs, hh⟩ | ⟨t, hs, hh⟩
    · rw [trace_succ_of_fault n hs, trace_succ_of_fault n hh]
    · have htprog := (step_keeps hs).1
      rw [trace_succ_of_next n hs, trace_succ_of_next n hh, ih (htprog ▸ hprog)]
      rfl

/-- Settles O53: both traces are the trace of the one state left when the input is hidden. -/
theorem inputCannotReachAProgramThatNeverReadsIt : Obligations.InputCannotReachAProgramThatNeverReadsIt := by
  intro n s t hprog hsame
  have ⟨_, _, _, _, _, htprog, _⟩ := hsame
  calc trace n t = trace n t.hideInput := (trace_hideInput n (htprog ▸ hprog)).symm
    _ = trace n s.hideInput := by rw [State.hideInput_eq_of_sameButInput hsame]
    _ = trace n s := trace_hideInput n hprog

end Sys2Proof.Machine

/-! PROOFS. The instruction space seen from the fetch (20_memory.md R30, R31, R32): a loaded program word by word, its decoding,
and what execute leaves of it. -/

namespace Sys2Proof.Machine

/-! ## Every instruction admitted by the policy completes -/

/-- No action writes the program, the policy or the schedule (R27, R32). -/
theorem Action.run_sameRun (a : Action) (s : State) : s.sameRun (a.run s) :=
  ⟨fun x => congrArg (Memory.read · x) (a.run_prog s), a.run_prog s, a.run_undefPolicy s, a.run_hostTurns s⟩

/-- Settles O18: an admitted instruction completes with its action, which keeps the parameters of the run and the input latch. -/
theorem executeAlwaysCompletes : Obligations.ExecuteAlwaysCompletes := by
  intro i s hwf
  exact ⟨(actionOf i).run s, exec_of_wellFormed hwf, Action.run_sameRun _ s, Action.run_portIn _ s⟩

/-! ## The fetch of a loaded program -/

theorem fetch_of_ofWords {s : State} {ws : List Byte} (h : s.prog = Memory.ofWords ws) : fetch s = ws[s.pc.toNat]? := by
  rw [fetch, h, Memory.ofWords_read]

/-- At or past the length of the program the cycle raises AddressOutOfRange (R31). -/
theorem cycle_of_length_le_pc {s : State} {ws : List Byte} (h : s.prog = Memory.ofWords ws)
    (hpc : ws.length ≤ s.pc.toNat) : cycle s = .fault (.addressOutOfRange s.pc) :=
  cycle_of_fetch_none ((fetch_of_ofWords h).trans (List.getElem?_eq_none hpc))

/-- A cycle that fetches a word does not raise AddressOutOfRange: execute has only the other fault (R132). -/
theorem cycle_ne_addressOutOfRange {s : State} {w : Byte} (hf : fetch s = some w) (a : Nibble) :
    cycle s ≠ .fault (.addressOutOfRange a) := by
  cases hwf : (decode w).wellFormed s.undefPolicy with
  | true => simp [cycle_of_wellFormed hf hwf]
  | false => simp [cycle_of_not_wellFormed hf hwf]

/-- Settles O13: the fetch is the word of the sequence at the program counter, which is below 16. -/
theorem fetchReadsTheProgramOrFaults : Obligations.FetchReadsTheProgramOrFaults := by
  intro ws s _ hprog
  refine ⟨fun a => by rw [hprog, Memory.ofWords_read], fetch_of_ofWords hprog, cycle_of_length_le_pc hprog, ?_, ?_⟩
  · intro hfull
    have hlt : s.pc.toNat < ws.length := hfull ▸ s.pc.isLt
    exact cycle_ne_addressOutOfRange ((fetch_of_ofWords hprog).trans (List.getElem?_eq_getElem hlt))
  · intro hempty
    exact cycle_of_length_le_pc hprog (hempty ▸ Nat.zero_le _)

/-! ## The decoding of a loaded program -/

/-- The opcode and the operand of an instruction determine it (R52, R53). -/
theorem decodeFields_opcode_operand (i : Instr) : decodeFields i.opcode i.operand = i := by
  cases i <;> simp [decodeFields, Instr.opcode, Instr.operand]

theorem decode_encode (i : Instr) : decode (encode i) = i :=
  (decode_encodeFields _ _).trans (decodeFields_opcode_operand i)

theorem map_decode_getElem?_map_encode (is : List Instr) (n : Nat) : (is.map encode)[n]?.map decode = is[n]? := by
  simp [Function.comp_def, decode_encode]

/-- Settles O2: the loaded program is fetched word by word, and each word decodes to the instruction it encodes. -/
theorem loadedProgramDecodesAtEveryAddress : Obligations.LoadedProgramDecodesAtEveryAddress := by
  intro is s hle
  have hload := s.loadProgram_of_le (ws := is.map encode) (by rwa [List.length_map])
  refine ⟨_, hload, fun a => ?_⟩
  rw [fetch_of_ofWords (State.setPc_prog _ a), State.setPc_pc]
  exact map_decode_getElem?_map_encode is a.toNat

end Sys2Proof.Machine

/-! PROOFS. Encoding and decoding (30_encoding.md): a word by its two fields, R54's decode under a policy by whether the pattern
is undefined, and what execute makes of a decoded word. -/

namespace Sys2Proof.Machine

/-! ## A word by its two fields -/

/-- Decode of the concatenation, as the claims write it. -/
theorem decode_append (c o : Nibble) : decode (c ++ o) = decodeFields c o := decode_encodeFields c o

/-- All sixteen opcode patterns have a constructor, so decode loses nothing of the opcode field (R53). -/
theorem opcode_decodeFields : ∀ c o : Nibble, (decodeFields c o).opcode = c := by decide

/-- The operand rule of R52, by the opcode of an instruction. -/
theorem operand_decodeFields_opcode (i : Instr) (o : Nibble) :
    (decodeFields i.opcode o).operand = if i = .inA ∨ i = .inB ∨ i = .outB then 0 else o := by
  cases i with
  | inA | inB | outB => rfl
  | _ => simp [Instr.opcode, decodeFields, Instr.operand]

/-- Settles O1: the word is built from the two fields that decode takes it apart into, the opcode field determines the
constructor, and only InA, InB and OutB drop the nibble. -/
theorem decodeEncodeRoundTrip : Obligations.DecodeEncodeRoundTrip := by
  intro i
  refine ⟨rfl, decode_encode i, fun o => ?_⟩
  rw [decode_append]
  exact ⟨opcode_decodeFields i.opcode o, operand_decodeFields_opcode i o⟩

/-- Settles O3: once the word is split into its fields, each line is a row of the opcode map. -/
theorem opcodeMapOfTheTable : Obligations.OpcodeMapOfTheTable := by
  intro k
  simp only [decode_append]
  exact ⟨rfl, rfl, rfl, rfl, rfl, rfl, rfl, rfl, rfl, rfl, rfl, rfl, rfl, rfl, rfl, rfl⟩

/-- Settles O4: eight of the words are the encodings of their instructions; 0x2B and 0x9F carry a nibble that decode drops. -/
theorem wordsOfTheSpecDecode : Obligations.WordsOfTheSpecDecode :=
  ⟨decode_encode (.addA 0), decode_encode (.addB 10), decode_encode (.movA 15), decode_encode (.movAB 7),
    decode_encode (.jmp 9), decode_encode (.jnc 4), decode_append 0x2 0xB, decode_append 0x9 0xF,
    decode_encode (.outIm 3), decode_encode (.undefined1101 15)⟩

/-! ## R54's decode under a policy -/

/-- The undefined patterns go to the policy, every other word to its own instruction (R54). -/
theorem decodeUnder_eq (p : UndefPolicy) (w : Byte) :
    decodeUnder p w =
      if (decode w).isUndefined then decodeUndefined p (decode w).operand else some (decode w) := by
  rw [decodeUnder]
  cases decode w <;> rfl

theorem decodeUnder_of_not_isUndefined {w : Byte} (h : (decode w).isUndefined = false) (p : UndefPolicy) :
    decodeUnder p w = some (decode w) := by
  simp [decodeUnder_eq, h]

theorem decodeUnder_of_isUndefined {w : Byte} (h : (decode w).isUndefined = true) (p : UndefPolicy) :
    decodeUnder p w = decodeUndefined p (immField w) := by
  simp [decodeUnder_eq, h, operand_decode_of_isUndefined w h]

theorem decodeUnder_fault_eq_none_iff (w : Byte) : decodeUnder .fault w = none ↔ (decode w).isUndefined = true := by
  cases h : (decode w).isUndefined with
  | false => simp [decodeUnder_of_not_isUndefined h]
  | true => simp [decodeUnder_of_isUndefined h, decodeUndefined]

/-- The words of the four undefined patterns (R55). -/
theorem isUndefined_decode_iff : ∀ w : Byte, (decode w).isUndefined = true ↔
    (0x80 ≤ w ∧ w ≤ 0x8F) ∨ (0xA0 ≤ w ∧ w ≤ 0xAF) ∨ (0xC0 ≤ w ∧ w ≤ 0xDF) := by decide

/-- Settles O5: Undefined under `fault` is the mark of the pattern, and `alias_adda` turns a marked word into AddA. -/
theorem undefinedWordsAreTheSixtyFour : Obligations.UndefinedWordsAreTheSixtyFour := by
  intro w
  rw [decodeUnder_fault_eq_none_iff]
  exact ⟨isUndefined_decode_iff w, fun h => decodeUnder_of_isUndefined h .aliasAddA⟩

/-! ## Execute of a decoded word -/

/-- An undefined word keeps its nibble, so it is the encoding of its own constructor. -/
theorem encode_decode_of_isUndefined {w : Byte} (h : (decode w).isUndefined = true) : encode (decode w) = w := by
  have hopcode : (decode w).opcode = opcField w := opcode_decodeFields _ _
  rw [encode, hopcode, operand_decode_of_isUndefined w h, encodeFields_fields]

/-- Under `alias_adda` an undefined pattern executes as AddA with its operand (R133). -/
theorem exec_eq_exec_addA {i : Instr} {s : State} (hu : i.isUndefined = true) (hp : s.undefPolicy = .aliasAddA) :
    exec i s = exec (.addA i.operand) s := by
  rw [exec_of_isUndefined hu, undefinedPattern_aliasAddA hp]
  rfl

theorem wellFormed_eq_false_iff (i : Instr) (p : UndefPolicy) :
    i.wellFormed p = false ↔ i.isUndefined = true ∧ p = .fault := by
  cases p <;> simp [Instr.wellFormed]

/-- Settles O6: a word outside the undefined patterns is its own decoding; for the others the policy decides on both sides
alike. -/
theorem executeFollowsDecodeUnderThePolicy : Obligations.ExecuteFollowsDecodeUnderThePolicy := by
  intro s w
  cases hu : (decode w).isUndefined with
  | false => simp [decodeUnder_of_not_isUndefined hu]
  | true =>
    rw [decodeUnder_of_isUndefined hu]
    cases hp : s.undefPolicy with
    | aliasAddA =>
      have hadd : exec (decode w) s = exec (.addA (immField w)) s := by
        rw [exec_eq_exec_addA hu hp, operand_decode_of_isUndefined w hu]
      simp [decodeUndefined, hadd]
    | fault =>
      have hfault := exec_of_not_wellFormed ((wellFormed_eq_false_iff _ _).2 ⟨hu, hp⟩)
      simp [decodeUndefined, hfault, encode_decode_of_isUndefined hu]

/-- Settles O39: an admitted instruction answers a next state, any other one the fault of R132. -/
theorem undefinedPatternsFaultUnderFaultPolicy : Obligations.UndefinedPatternsFaultUnderFaultPolicy := by
  intro i s f
  rw [← and_assoc, ← wellFormed_eq_false_iff]
  cases h : i.wellFormed s.undefPolicy with
  | true => simp [exec_of_wellFormed h]
  | false => simp [exec_of_not_wellFormed h, eq_comm]

/-! ## A jump to its own address -/

theorem afterCycle_of_next {s t : State} (h : cycle s = .next t) : afterCycle s = t := by
  simp [afterCycle, h]

/-- The program counter is written with itself, so only the carry can change (R110). -/
theorem afterCycle_of_jmp_self {s : State} {w : Byte} (hf : fetch s = some w) (hd : decode w = .jmp s.pc) :
    afterCycle s = s.setCarry false := by
  apply afterCycle_of_next
  rw [cycle_of_fetch_some hf, hd]
  rfl

/-- Settles O44: the state with the carry clear fetches the same jump, so the cycle returns it unchanged, and so does every
iterate of the cycle. -/
theorem jumpToItselfIsAFixedPoint : Obligations.JumpToItselfIsAFixedPoint := by
  intro n s w hf hd
  have hfixed : afterCycle (s.setCarry false) = s.setCarry false := afterCycle_of_jmp_self hf hd
  rw [Function.iterate_succ_apply, afterCycle_of_jmp_self hf hd]
  exact Function.iterate_fixed hfixed n

end Sys2Proof.Machine

/-! PROOFS. The cycle against the pseudocode of R76, and the claims about the step, the program counter and the trace
(40_cycle.md R70 to R79). -/

namespace Sys2Proof.Machine

/-! ## A state after each action, read as numbers -/

theorem carryOf_toNat (v k : Nibble) : (carryOf v k).toNat = (v.toNat + k.toNat) / 16 := by
  have h := adder_exact v k
  have := (sumOf v k).isLt
  omega

namespace Pseudocode

/-- A general register of R76. -/
def View.reg (v : View) : Reg → Nat
  | .a => v.numA
  | .b => v.numB

/-- A register or the output latch of R76 written. -/
def View.write (v : View) : Dest → Nat → View
  | .reg .a, n => { v with numA := n }
  | .reg .b, n => { v with numB := n }
  | .portOut, n => { v with numOUT := n }

theorem view_addTo (r : Reg) (k : Nibble) (s : State) :
    view (addTo r k s) = sequencer { (view s).write (.reg r) (((view s).reg r + k.toNat) % 16) with
      numC := ((view s).reg r + k.toNat) / 16 } := by
  cases r <;> simp [addTo_eq, view, View.reg, View.write, sequencer, sumOf_toNat, carryOf_toNat]

theorem view_transfer (dst : Dest) (src : Source) (s : State) :
    view (transfer dst src s) = sequencer { (view s).write dst (src.value s).toNat with numC := 0 } := by
  rw [transfer_eq]
  cases dst with
  | reg r => cases r <;> simp [Dest.write, view, View.write, sequencer]
  | portOut => simp [Dest.write, view, View.write, sequencer]

theorem view_run_jnc (target : Nibble) (s : State) :
    view ((Action.jnc target).run s) =
      if (view s).numC = 0 then { view s with numPC := target.toNat, numC := 0 } else { view s with numC := 0 } := by
  cases h : s.carry <;> simp [Action.run, view, h]

/-! ## The pseudocode on a word of the model -/

/-- `op = w / 16` of R76 is the opcode of the decoded word. -/
theorem toNat_div_16 : ∀ w : Byte, w.toNat / 16 = (decode w).opcode.toNat := by decide

/-- `k = w mod 16` of R76 is the low nibble of the word. -/
theorem toNat_mod_16 : ∀ w : Byte, w.toNat % 16 = (immField w).toNat := by decide

/-- The action is determined by the opcode of the decoded word and the low nibble of the word. -/
theorem actionOf_decode (w : Byte) : actionOf (decode w) = actionOf (decodeFields (decode w).opcode (immField w)) := by
  rw [decode, opcode_decodeFields]

theorem run_of_fetch_none {program : List Nat} {v : View} (h : program[v.numPC]? = none) (p : UndefPolicy) :
    run program p v = .addressOutOfRange v.numPC := by
  rw [run, h]

/-- On a word the policy admits the pseudocode gives the action of the decoded word: with the opcode written out, both sides are
one row of the opcode table. -/
theorem run_of_wellFormed {program : List Nat} {p : UndefPolicy} {s : State} {w : Byte}
    (hf : program[(view s).numPC]? = some w.toNat) (hwf : (decode w).wellFormed p = true) :
    run program p (view s) = .next (view ((actionOf (decode w)).run s)) := by
  have hp := (wellFormed_iff _ _).1 hwf
  simp only [run, hf, toNat_div_16, toNat_mod_16]
  rw [actionOf_decode]
  generalize decode w = i at hp ⊢
  generalize immField w = o
  symm
  cases i <;> dsimp only [Instr.opcode]
  case addA | addB => exact congrArg Result.next (view_addTo _ o s)
  case movA | movB | movAB | movBA | inA | inB | outB | outIm => exact congrArg Result.next (view_transfer _ _ s)
  case jnc => exact congrArg Result.next (view_run_jnc o s)
  case jmp => rfl
  case undefined1000 | undefined1010 | undefined1100 | undefined1101 =>
    cases hp rfl
    exact congrArg Result.next (view_addTo .a o s)

/-- On any other word the pseudocode raises UndefinedOpcode. -/
theorem run_of_not_wellFormed {program : List Nat} {p : UndefPolicy} {v : View} {w : Byte}
    (hf : program[v.numPC]? = some w.toNat) (hwf : (decode w).wellFormed p = false) :
    run program p v = .undefinedOpcode v.numPC w.toNat := by
  obtain ⟨hu, rfl⟩ := (wellFormed_eq_false_iff _ _).1 hwf
  simp only [run, hf, toNat_div_16]
  generalize decode w = i at hu ⊢
  cases i with
  | undefined1000 | undefined1010 | undefined1100 | undefined1101 => rfl
  | _ => cases hu

/-- The pseudocode on the program as numbers fetches what the model fetches. -/
theorem getElem?_view_numPC {s : State} {ws : List Byte} (h : s.prog = Memory.ofWords ws) :
    (ws.map BitVec.toNat)[(view s).numPC]? = (fetch s).map BitVec.toNat := by
  rw [List.getElem?_map, fetch_of_ofWords h]
  rfl

theorem viewOutcome_cycle {s : State} {ws : List Byte} (h : s.prog = Memory.ofWords ws) :
    viewOutcome (cycle s) = run (ws.map BitVec.toNat) s.undefPolicy (view s) := by
  have hword := getElem?_view_numPC h
  cases hf : fetch s with
  | none =>
    rw [cycle_of_fetch_none hf, run_of_fetch_none (by rw [hword, hf]; rfl)]
    rfl
  | some w =>
    rw [hf] at hword
    cases hwf : (decode w).wellFormed s.undefPolicy with
    | true => rw [cycle_of_wellFormed hf hwf, run_of_wellFormed hword hwf, viewOutcome]
    | false =>
      have hu := ((wellFormed_eq_false_iff _ _).1 hwf).1
      rw [cycle_of_not_wellFormed hf hwf, run_of_not_wellFormed hword hwf, encode_decode_of_isUndefined hu]
      rfl

end Pseudocode

/-- Settles O47: the pseudocode agrees with the cycle in each of its three outcomes, and the cycle's action keeps the
parameters of the run. -/
theorem cycleIsThePseudocodeOfTheSpec : Obligations.CycleIsThePseudocodeOfTheSpec := by
  intro ws s _ hprog
  refine ⟨Pseudocode.viewOutcome_cycle hprog, fun t ht => ?_⟩
  obtain ⟨w, -, -, rfl⟩ := cycle_eq_next_iff.1 ht
  exact Action.run_sameRun _ s

/-! ## The step, the program counter and the trace -/

/-- Settles O15: a step is never a refusal, and a faulting cycle returns no state of its own. -/
theorem stepAnswersNextOrFaultWithStateKept : Obligations.StepAnswersNextOrFaultWithStateKept := by
  intro s
  cases hs : step s with
  | next t => exact .inl ⟨t, rfl⟩
  | fault f => exact .inr ⟨f, rfl, afterCycle_of_fault hs⟩
  | refused r => exact absurd hs (step_ne_refused s r)

/-- Settles O19: the program counter after the action of the instruction. -/
theorem sequencerLaw : Obligations.SequencerLaw := by
  intro i s t h
  obtain ⟨-, rfl⟩ := exec_eq_next_iff.1 h
  refine ⟨fun hjump => ?noJump, fun k hk => ?jmp, fun k hk => ?jnc⟩
  case noJump =>
    rw [run_pc_of_no_jump hjump]
    exact BitVec.toNat_add s.pc 1
  case jmp => subst hk; rfl
  case jnc => subst hk; rfl

/-- Settles O45, by induction on the number of steps: a step that completes adds one output and goes on, a fault ends the trace
and the run. -/
theorem traceEndsEarlyExactlyByAFault : Obligations.TraceEndsEarlyExactlyByAFault := by
  intro n
  induction n with
  | zero => exact fun s => ⟨⟨fun _ => rfl, fun _ => rfl⟩, Nat.le_refl 0, ⟨fun _ => ⟨s, rfl⟩, fun _ => rfl⟩⟩
  | succ n ih =>
    intro s
    cases hs : step s with
    | next t =>
      obtain ⟨hlength, hle, hrun⟩ := ih t
      rw [trace_succ_of_next n hs, run_succ_of_next n hs]
      exact ⟨by simpa using hlength, Nat.succ_le_succ hle, hrun⟩
    | fault f =>
      rw [trace_succ_of_fault n hs, run_succ_of_fault n hs]
      simp
    | refused r => exact absurd hs (step_ne_refused s r)

/-- Settles O12: the fetch of the state after the host's turn finds the word. -/
theorem stepRunsTheDecodedInstruction : Obligations.StepRunsTheDecodedInstruction :=
  fun _ _ hf => ⟨cycle_of_fetch_some hf, State.hostTurn_nil⟩

end Sys2Proof.Machine

/-! PROOFS. The adder and the two instructions that use it (41_add.md R90 to R93). -/

namespace Sys2Proof.Machine

/-! ## The adder -/

/-- The result of the adder is the wrapping sum of four-bit words (R92). -/
theorem sumOf_eq_add (v o : Nibble) : sumOf v o = v + o :=
  BitVec.eq_of_toNat_eq ((sumOf_toNat v o).trans (BitVec.toNat_add v o).symm)

theorem carryOf_iff (v o : Nibble) : carryOf v o = true ↔ 15 < v.toNat + o.toNat := by
  rw [carryOf_eq, decide_eq_true_iff]

/-- Settles O25: the exact sum of R93 gives the first lines, the wrapping addition of words the commutativity and the way back,
and the complement as a number the carry of a subtraction. -/
theorem adderIsExact : Obligations.AdderIsExact := by
  intro v o
  refine ⟨sumOf_toNat v o, carryOf_iff v o, adder_exact v o, ?commutes, fun ho => ⟨?wayBack, ?subtractionCarry⟩⟩
  case commutes => rw [sumOf_eq_add, sumOf_eq_add, BitVec.add_comm]
  case wayBack => rw [sumOf_eq_add, sumOf_eq_add, add_neg_cancel_right]
  case subtractionCarry =>
    have hneg : (-o).toNat = 16 - o.toNat := BitVec.toNat_neg_of_pos ((BitVec.pos_iff_ne_zero o).2 ho)
    rw [carryOf_iff, hneg]
    omega

/-! ## The add to a register -/

theorem addTo_reg_toNat (r : Reg) (k : Nibble) (s : State) :
    ((addTo r k s).reg r).toNat = ((s.reg r).toNat + k.toNat) % 16 := by
  rw [← sumOf_toNat]
  cases r <;> rfl

theorem addTo_reg_of_ne {r r' : Reg} (h : r' ≠ r) (k : Nibble) (s : State) : (addTo r k s).reg r' = s.reg r' := by
  match r, r' with
  | .a, .b | .b, .a => rfl
  | .a, .a | .b, .b => exact absurd rfl h

theorem addTo_carry_iff (r : Reg) (k : Nibble) (s : State) :
    (addTo r k s).carry = true ↔ 15 < (s.reg r).toNat + k.toNat := by
  rw [addTo_eq, State.setPc_carry, State.setCarry_carry, carryOf_iff]

theorem addTo_pc_toNat (r : Reg) (k : Nibble) (s : State) : (addTo r k s).pc.toNat = (s.pc.toNat + 1) % 16 := by
  rw [addTo_eq, State.setPc_pc]
  exact BitVec.toNat_add s.pc 1

theorem addTo_sameRun (r : Reg) (k : Nibble) (s : State) : s.sameRun (addTo r k s) := Action.run_sameRun (.add r k) s

/-- The whole law of R90 and R91 on a register, with the other register `r'` kept. -/
theorem addTo_law {r r' : Reg} (h : r' ≠ r) (k : Nibble) (s : State) :
    ((addTo r k s).reg r).toNat = ((s.reg r).toNat + k.toNat) % 16 ∧
      ((addTo r k s).carry = true ↔ 15 < (s.reg r).toNat + k.toNat) ∧
      (addTo r k s).pc.toNat = (s.pc.toNat + 1) % 16 ∧ (addTo r k s).reg r' = s.reg r' ∧
      (addTo r k s).portIn = s.portIn ∧ (addTo r k s).portOut = s.portOut ∧ s.sameRun (addTo r k s) := by
  obtain ⟨-, -, -, hin, hout⟩ := addTo_keeps r k s
  exact ⟨addTo_reg_toNat r k s, addTo_carry_iff r k s, addTo_pc_toNat r k s, addTo_reg_of_ne h k s, hin, hout,
    addTo_sameRun r k s⟩

/-- Settles O26: AddA is the add to A, which keeps B. -/
theorem addASumCarryAndFrame : Obligations.AddASumCarryAndFrame :=
  fun k s => ⟨decode_append 0b0000 k, addTo .a k s, rfl, addTo_law (r := .a) (r' := .b) nofun k s⟩

/-- Settles O27: AddB is the add to B, which keeps A. -/
theorem addBSumCarryAndFrame : Obligations.AddBSumCarryAndFrame :=
  fun k s => ⟨decode_append 0b0101 k, addTo .b k s, rfl, addTo_law (r := .b) (r' := .a) nofun k s⟩

end Sys2Proof.Machine

/-! PROOFS. The transfers to a general register: MovA, MovB, MovAB and MovBA (42_mov.md R100 to R104). -/

namespace Sys2Proof.Machine

/-! ## What a transfer writes and what it keeps (R104) -/

theorem transfer_reg_same (r : Reg) (src : Source) (s : State) : (transfer (.reg r) src s).reg r = src.value s := by
  cases r <;> rfl

theorem transfer_reg_of_ne {dst : Dest} {r : Reg} (h : dst ≠ .reg r) (src : Source) (s : State) :
    (transfer dst src s).reg r = s.reg r := by
  have hdest : (Action.move dst src).dest ≠ some (.reg r) := fun heq => h (Option.some.inj heq)
  cases r with
  | a => exact Action.run_regA_of_dest_ne hdest s
  | b => exact Action.run_regB_of_dest_ne hdest s

theorem transfer_portOut_of_reg (r : Reg) (src : Source) (s : State) :
    (transfer (.reg r) src s).portOut = s.portOut :=
  Action.run_portOut_of_dest_ne (a := .move (.reg r) src) nofun s

theorem transfer_carry (dst : Dest) (src : Source) (s : State) : (transfer dst src s).carry = false :=
  Action.run_carry (.move dst src) s

theorem transfer_pc_toNat (dst : Dest) (src : Source) (s : State) :
    (transfer dst src s).pc.toNat = (s.pc.toNat + 1) % 16 := by
  rw [transfer_eq, State.setPc_pc]
  exact BitVec.toNat_add s.pc 1

theorem transfer_sameRun (dst : Dest) (src : Source) (s : State) : s.sameRun (transfer dst src s) :=
  Action.run_sameRun (.move dst src) s

/-- The whole law of R104 for a transfer to a register, with the other register `r'` kept. -/
theorem transfer_reg_law {r r' : Reg} (h : r' ≠ r) (src : Source) (s : State) :
    (transfer (.reg r) src s).reg r = src.value s ∧ (transfer (.reg r) src s).carry = false ∧
      (transfer (.reg r) src s).pc.toNat = (s.pc.toNat + 1) % 16 ∧ (transfer (.reg r) src s).reg r' = s.reg r' ∧
      (transfer (.reg r) src s).portIn = s.portIn ∧ (transfer (.reg r) src s).portOut = s.portOut ∧
      s.sameRun (transfer (.reg r) src s) := by
  obtain ⟨-, -, -, hin⟩ := transfer_keeps (.reg r) src s
  have hne : Dest.reg r ≠ .reg r' := fun heq => h (Dest.reg.inj heq).symm
  exact ⟨transfer_reg_same r src s, transfer_carry _ src s, transfer_pc_toNat _ src s, transfer_reg_of_ne hne src s, hin,
    transfer_portOut_of_reg r src s, transfer_sameRun _ src s⟩

/-! ## The four instructions -/

/-- Settles O28: MovA is the transfer of the operand to A, which keeps B. -/
theorem movALoadsTheOperand : Obligations.MovALoadsTheOperand :=
  fun k s => ⟨decode_append 0b0011 k, transfer (.reg .a) (.imm k) s, rfl,
    transfer_reg_law (r := .a) (r' := .b) nofun (.imm k) s⟩

/-- Settles O29: MovB is the transfer of the operand to B, which keeps A. -/
theorem movBLoadsTheOperand : Obligations.MovBLoadsTheOperand :=
  fun k s => ⟨decode_append 0b0111 k, transfer (.reg .b) (.imm k) s, rfl,
    transfer_reg_law (r := .b) (r' := .a) nofun (.imm k) s⟩

/-- Settles O30: MovAB is the transfer of A to B whatever the nibble, and it keeps A. -/
theorem movABCopiesAIntoB : Obligations.MovABCopiesAIntoB :=
  fun x s => ⟨decode_append 0b0001 x, transfer (.reg .b) (.reg .a) s, rfl,
    transfer_reg_law (r := .b) (r' := .a) nofun (.reg .a) s⟩

/-- Settles O31: MovBA is the transfer of B to A whatever the nibble, and it keeps B. -/
theorem movBACopiesBIntoA : Obligations.MovBACopiesBIntoA :=
  fun x s => ⟨decode_append 0b0100 x, transfer (.reg .a) (.reg .b) s, rfl,
    transfer_reg_law (r := .a) (r' := .b) nofun (.reg .b) s⟩

end Sys2Proof.Machine

/-! PROOFS. The two jumps (43_jump.md R110 to R113): a Jnc is a Jmp when the carry is clear and only clears the carry when it is
set; a jump writes nothing but the program counter and the carry, and its target is checked by the next fetch. -/

namespace Sys2Proof.Machine

/-! ## What a jump does -/

theorem Action.run_jnc_of_clear {s : State} (h : s.carry = false) (k : Nibble) :
    (Action.jnc k).run s = (Action.jmp k).run s := by
  rw [Action.run, Action.run, h]
  rfl

theorem Action.run_jnc_of_set {s : State} (h : s.carry = true) (k : Nibble) :
    (Action.jnc k).run s = s.clearCarry := by
  rw [Action.run, h]
  rfl

/-- Clearing a carry that is clear changes nothing. -/
theorem State.clearCarry_of_clear {s : State} (h : s.carry = false) : s.clearCarry = s := by
  rw [State.clearCarry, ← h]
  rfl

/-- An action without a destination keeps both registers, both latches and the parameters of the run. -/
theorem Action.run_frame_of_dest_none {a : Action} (h : a.dest = none) (s : State) :
    (a.run s).regA = s.regA ∧ (a.run s).regB = s.regB ∧ (a.run s).portIn = s.portIn ∧
      (a.run s).portOut = s.portOut ∧ s.sameRun (a.run s) := by
  have hne (d : Dest) : a.dest ≠ some d := by simp [h]
  exact ⟨Action.run_regA_of_dest_ne (hne _) s, Action.run_regB_of_dest_ne (hne _) s, a.run_portIn s,
    Action.run_portOut_of_dest_ne (hne _) s, a.run_sameRun s⟩

/-- A program holds no word at a target at or past its length, so the fetch after the jump faults (R113). -/
theorem cycle_after_jump_outside {s : State} {k : Nibble} (hinv : s.inv) (hk : s.prog.size ≤ k.toNat) :
    cycle ((Action.jmp k).run s) = .fault (.addressOutOfRange k) :=
  cycle_of_fetch_none ((fetch_eq_none_iff (s := (Action.jmp k).run s) hinv).2 hk)

/-! ## The cycle at a jump -/

theorem cycle_of_not_isUndefined {s : State} {w : Byte} {i : Instr} (hf : fetch s = some w) (hd : decode w = i)
    (hu : i.isUndefined = false) : cycle s = .next ((actionOf i).run s) := by
  rw [cycle_of_fetch_some hf, hd, exec_of_not_isUndefined hu]

theorem cycle_of_jnc {s : State} {w : Byte} {k : Nibble} (hf : fetch s = some w) (hd : decode w = .jnc k) :
    cycle s = .next ((Action.jnc k).run s) :=
  cycle_of_not_isUndefined hf hd rfl

/-- A Jnc taken sets the program counter, and the carry was clear already (R111). -/
theorem cycle_of_jnc_of_clear {s : State} {w : Byte} {k : Nibble} (hf : fetch s = some w) (hd : decode w = .jnc k)
    (h : s.carry = false) : cycle s = .next (s.setPc k) := by
  rw [cycle_of_jnc hf hd, Action.run_jnc_of_clear h, Action.run, State.clearCarry_of_clear (s := s.setPc k) h]

/-! ## The claims -/

/-- Settles O37: the action of Jnc is that of Jmp with the carry clear, and only clears the carry with it set. -/
theorem jncTakenOnlyWithCarryClear : Obligations.JncTakenOnlyWithCarryClear := by
  intro k s
  obtain ⟨hA, hB, hin, hout, hrun⟩ := Action.run_frame_of_dest_none (a := .jnc k) rfl s
  refine ⟨decode_append 0b1110 k, (Action.jnc k).run s, exec_of_not_isUndefined rfl s, fun hclear => ?taken,
    fun hset => ?notTaken, Action.run_carry _ s, hA, hB, hin, hout, hrun, fun hinv hclear hk => ?outside⟩
  case taken =>
    rw [Action.run_jnc_of_clear hclear]
    rfl
  case notTaken => rw [Action.run_jnc_of_set hset, State.clearCarry_pc]
  case outside =>
    rw [Action.run_jnc_of_clear hclear]
    exact cycle_after_jump_outside hinv hk

/-- Settles O40: a Jnc not taken stays on itself with the carry clear, and the host can write the input latch only, so the
next cycle is that of a Jnc taken. -/
theorem jncAlwaysBranchesInOneOrTwoCycles : Obligations.JncAlwaysBranchesInOneOrTwoCycles := by
  intro s w k hf hd
  refine ⟨cycle_of_jnc_of_clear hf hd, fun hset => ⟨s.clearCarry, ?stays, rfl, fun ms hms => ?branches⟩⟩
  case stays => rw [cycle_of_jnc hf hd, Action.run_jnc_of_set hset]
  case branches =>
    rw [State.hostMoves_of_noReset s.clearCarry ms hms]
    exact ⟨_, cycle_of_jnc_of_clear hf hd rfl, rfl⟩

/-- Settles O41: both jumps run the action of Jmp, which does not look at the target; the next fetch does. -/
theorem jumpOutsideFaultsAtTheNextFetch : Obligations.JumpOutsideFaultsAtTheNextFetch := by
  intro s w k hinv hf hk hjump
  have hnext : cycle s = .next ((Action.jmp k).run s) := by
    rcases hjump with hd | ⟨hd, hclear⟩
    · exact cycle_of_not_isUndefined hf hd rfl
    · rw [cycle_of_jnc hf hd, Action.run_jnc_of_clear hclear]
  exact ⟨_, hnext, rfl, rfl, cycle_after_jump_outside hinv hk⟩

/-- Settles O36: the action of Jmp has no destination, so only the program counter and the carry change. -/
theorem jmpSetsTheProgramCounter : Obligations.JmpSetsTheProgramCounter := by
  intro k s
  obtain ⟨hA, hB, hin, hout, hrun⟩ := Action.run_frame_of_dest_none (a := .jmp k) rfl s
  exact ⟨decode_append 0b1111 k, (Action.jmp k).run s, exec_of_not_isUndefined rfl s, rfl, rfl, hA, hB, hin, hout, hrun,
    cycle_after_jump_outside⟩

end Sys2Proof.Machine

/-! PROOFS. The transfers from the input latch and to the output latch: InA, InB, OutB and OutIm (44_io.md R120 to R123). -/

namespace Sys2Proof.Machine

/-! ## A transfer to the output latch -/

theorem transfer_portOut_same (src : Source) (s : State) : (transfer .portOut src s).portOut = src.value s := rfl

/-- The whole law of R104 for a transfer to the output latch, with both registers kept. -/
theorem transfer_portOut_law (src : Source) (s : State) :
    (transfer .portOut src s).portOut = src.value s ∧ (transfer .portOut src s).carry = false ∧
      (transfer .portOut src s).pc.toNat = (s.pc.toNat + 1) % 16 ∧ (transfer .portOut src s).regA = s.regA ∧
      (transfer .portOut src s).regB = s.regB ∧ (transfer .portOut src s).portIn = s.portIn ∧
      s.sameRun (transfer .portOut src s) := by
  obtain ⟨-, -, -, hin⟩ := transfer_keeps .portOut src s
  have hne (r : Reg) : Dest.portOut ≠ .reg r := nofun
  exact ⟨transfer_portOut_same src s, transfer_carry _ src s, transfer_pc_toNat _ src s,
    transfer_reg_of_ne (hne .a) src s, transfer_reg_of_ne (hne .b) src s, hin, transfer_sameRun _ src s⟩

/-! ## The four instructions -/

/-- Settles O32: InA is the transfer of the input latch to A whatever the nibble, which keeps B. -/
theorem inALoadsTheInputLatch : Obligations.InALoadsTheInputLatch :=
  fun x s => ⟨decode_append 0b0010 x, transfer (.reg .a) .portIn s, rfl,
    transfer_reg_law (r := .a) (r' := .b) nofun .portIn s⟩

/-- Settles O33: InB is the transfer of the input latch to B whatever the nibble, which keeps A. -/
theorem inBLoadsTheInputLatch : Obligations.InBLoadsTheInputLatch :=
  fun x s => ⟨decode_append 0b0110 x, transfer (.reg .b) .portIn s, rfl,
    transfer_reg_law (r := .b) (r' := .a) nofun .portIn s⟩

/-- Settles O34: OutB is the transfer of B to the output latch whatever the nibble. -/
theorem outBWritesBToTheOutputLatch : Obligations.OutBWritesBToTheOutputLatch :=
  fun x s => ⟨decode_append 0b1001 x, transfer .portOut (.reg .b) s, rfl, transfer_portOut_law (.reg .b) s⟩

/-- Settles O35: OutIm is the transfer of the operand to the output latch. -/
theorem outImWritesTheOperand : Obligations.OutImWritesTheOperand :=
  fun k s => ⟨decode_append 0b1011 k, transfer .portOut (.imm k) s, rfl, transfer_portOut_law (.imm k) s⟩

end Sys2Proof.Machine

/-! PROOFS. The two faults (60_exceptions.md R130 to R138): which cycles raise them, that a fault repeats while the host does not
reset, and the undefined patterns under `alias_adda`. -/

namespace Sys2Proof.Machine

/-! ## When a cycle faults -/

/-- The four patterns of R55 by the opcode field of the word, as the claims write them. -/
theorem isUndefined_decode_iff_opcField :
    ∀ w : Byte, (decode w).isUndefined = true ↔ opcField w ∈ [0b1000, 0b1010, 0b1100, 0b1101] := by decide

/-- Under `fault` a word of the four patterns is undefined, and the fault records it as it was fetched (R132). -/
theorem cycle_of_undefined_word {s : State} {w : Byte} (hf : fetch s = some w)
    (hw : opcField w ∈ [0b1000, 0b1010, 0b1100, 0b1101]) (hp : s.undefPolicy = .fault) :
    cycle s = .fault (.undefinedOpcode s.pc w) := by
  have hu := (isUndefined_decode_iff_opcField w).2 hw
  rw [cycle_of_not_wellFormed hf ((wellFormed_eq_false_iff _ _).2 ⟨hu, hp⟩), encode_decode_of_isUndefined hu]

/-- Once a word is fetched, the only fault is that of R132, and it is raised exactly for the four patterns under `fault`. -/
theorem cycle_eq_fault_iff {s : State} {w : Byte} (hf : fetch s = some w) (f : Fault) :
    cycle s = .fault f ↔
      (opcField w ∈ [0b1000, 0b1010, 0b1100, 0b1101] ∧ s.undefPolicy = .fault) ∧ f = .undefinedOpcode s.pc w := by
  constructor
  case mp =>
    intro h
    have hexec : exec (decode w) s = .fault f := (cycle_of_fetch_some hf).symm.trans h
    obtain ⟨hu, hp, rfl⟩ := (undefinedPatternsFaultUnderFaultPolicy _ s f).1 hexec
    rw [encode_decode_of_isUndefined hu]
    exact ⟨⟨(isUndefined_decode_iff_opcField w).1 hu, hp⟩, rfl⟩
  case mpr =>
    rintro ⟨⟨hw, hp⟩, rfl⟩
    exact cycle_of_undefined_word hf hw hp

/-- Every other fetched word completes (R136). -/
theorem cycle_next_of_not_undefined_word {s : State} {w : Byte} (hf : fetch s = some w)
    (h : ¬(opcField w ∈ [0b1000, 0b1010, 0b1100, 0b1101] ∧ s.undefPolicy = .fault)) : ∃ t, cycle s = .next t := by
  refine ⟨_, cycle_of_wellFormed hf (Bool.of_not_eq_false ?_)⟩
  rwa [wellFormed_eq_false_iff, isUndefined_decode_iff_opcField]

/-- Settles O14: the fetch decides the first fault, the opcode field and the policy the second. -/
theorem cycleFaultsExactlyWhenTheRulesSay : Obligations.CycleFaultsExactlyWhenTheRulesSay := by
  intro s hinv
  refine ⟨fun hout => cycle_of_fetch_none ((fetch_eq_none_iff hinv).2 hout), fun hin => ?inside, fun _ => rfl,
    fun _ _ => rfl⟩
  case inside =>
    obtain ⟨w, hf⟩ := exists_fetch_of_lt hinv hin
    refine ⟨w, hf, ?_⟩
    split
    case isTrue h => exact cycle_of_undefined_word hf h.1 h.2
    case isFalse h => exact cycle_next_of_not_undefined_word hf h

/-- Settles O16: the policy is given, so the opcode field alone decides; after a fault the state is the one before it. -/
theorem undefinedOpcodeRaisedUnderFaultPolicy : Obligations.UndefinedOpcodeRaisedUnderFaultPolicy := by
  intro s w hp hf
  refine ⟨⟨fun h => ((cycle_eq_fault_iff hf _).1 h).1.1, fun hw => cycle_of_undefined_word hf hw hp⟩, fun hw => ?_⟩
  exact afterCycle_of_fault (cycle_of_undefined_word hf hw hp)

/-! ## A fault repeats until reset (R138) -/

/-- Neither fault looks at the input latch. -/
theorem cycle_with_portIn_of_fault {s : State} {f : Fault} (h : cycle s = .fault f) (v : Nibble) :
    cycle { s with portIn := v } = .fault f := by
  have hsame : fetch { s with portIn := v } = fetch s := rfl
  cases hf : fetch s with
  | none => exact (cycle_of_fetch_none (hsame.trans hf)).trans ((cycle_of_fetch_none hf).symm.trans h)
  | some w => exact (cycle_eq_fault_iff (hsame.trans hf) f).2 ((cycle_eq_fault_iff hf f).1 h)

/-- After a turn without a reset and another cycle, a faulting state differs in the input latch at most. -/
theorem afterCycle_hostMoves_of_fault {s : State} {f : Fault} (h : cycle s = .fault f) {ms : List HostMove}
    (hms : ∀ m ∈ ms, m.isReset = false) :
    afterCycle (s.hostMoves ms) = { s with portIn := (s.hostMoves ms).portIn } := by
  rw [State.hostMoves_of_noReset s ms hms]
  exact afterCycle_of_fault (cycle_with_portIn_of_fault h _)

/-- Settles O17: every turn keeps the state the same but for the input latch, and such a state raises the same fault. -/
theorem faultRepeatsUntilReset : Obligations.FaultRepeatsUntilReset := by
  intro turns s f hfault hturns
  have hkept : ∃ v, turns.foldl (fun u ms => afterCycle (u.hostMoves ms)) s = { s with portIn := v } := by
    refine List.foldlRecOn (motive := fun u : State => ∃ v, u = { s with portIn := v }) turns _ ⟨s.portIn, rfl⟩ ?_
    rintro _ ⟨v, rfl⟩ ms hms
    exact ⟨_, afterCycle_hostMoves_of_fault (cycle_with_portIn_of_fault hfault v) (hturns ms hms)⟩
  obtain ⟨v, hv⟩ := hkept
  rw [hv]
  exact ⟨cycle_with_portIn_of_fault hfault v, rfl⟩

/-! ## The undefined patterns under `alias_adda` (R133) -/

theorem cycle_ne_undefinedOpcode_of_aliasAddA {s : State} (hp : s.undefPolicy = .aliasAddA) (a : Nibble) (w : Byte) :
    cycle s ≠ .fault (.undefinedOpcode a w) := by
  cases hf : fetch s with
  | none => simp [cycle_of_fetch_none hf]
  | some w' => simp [cycle_eq_fault_iff hf, hp]

theorem exists_decodeUnder_aliasAddA (w : Byte) : ∃ i, decodeUnder .aliasAddA w = some i := by
  cases hu : (decode w).isUndefined with
  | false => exact ⟨_, decodeUnder_of_not_isUndefined hu _⟩
  | true => exact ⟨_, decodeUnder_of_isUndefined hu _⟩

/-- Settles O38: under `alias_adda` every pattern is the add of its nibble to A, which keeps B. -/
theorem undefinedPatternsExecuteAsAddAUnderAlias : Obligations.UndefinedPatternsExecuteAsAddAUnderAlias := by
  intro s hp
  refine ⟨fun k i hi => ⟨addTo .a k s, ?executes, addTo_law (r := .a) (r' := .b) nofun k s⟩,
    cycle_ne_undefinedOpcode_of_aliasAddA hp, hp ▸ exists_decodeUnder_aliasAddA⟩
  case executes =>
    simp only [List.mem_cons, List.not_mem_nil, or_false] at hi
    rcases hi with rfl | rfl | rfl | rfl
    all_goals exact undefinedPattern_aliasAddA hp _ k

end Sys2Proof.Machine

/-! PROOFS. The host's reset (70_reset_and_hazards.md R150, R152). -/

namespace Sys2Proof.Machine

/-- Settles O8: the six values `State.resetCore` writes are those of `State.reset`, and the three fields it leaves are those
the claim takes from `s`, so the two states agree field by field. -/
theorem hostResetZeroesCoreAndKeepsProgram : Obligations.HostResetZeroesCoreAndKeepsProgram := fun _ => rfl

end Sys2Proof.Machine
